-- ==== Sys2Proof/Word.lean ====
section
/-! DEFINITION. The plainest types of the RR25 core: a cell's code and the direction register's values. -/

namespace Sys2Proof

/-- The 8-bit code that one grid cell holds, `0..255` (rules R33 and R80). -/
abbrev Code := BitVec 8

/-- The four values of the direction register `dir`, in the order of their codes 0 to 3 (rule R32). -/
inductive Dir where
  | east
  | west
  | south
  | north
deriving DecidableEq, Repr, Inhabited

end Sys2Proof
end

