-- ==== Sys2Proof/Config.lean ====
section
/-! DEFINITION. The build's parameters (rule R6), and what the spec leaves free: the draw of `?`, and the integer parser
of a build that does not take rule R197's. -/

namespace Sys2Proof

/-- `DIV_MODE` (rule R6, I1): floor is this hardware; truncation toward zero is the alternative the source names. -/
inductive DivMode where
  | floor
  | trunc
deriving DecidableEq, Repr

/-- `DUP_EMPTY` (rule R6, I4): `:` on an empty stack leaves two zeros (this hardware) or one. -/
inductive DupEmpty where
  | two
  | one
deriving DecidableEq, Repr

/-- `PARSE_INT` (rule R6, I5): the function of rule R197 is this hardware. I5 lets a build take another function, of
which the spec says nothing; `foreign k` names the k-th of them, `Config.foreignParse k` (log 13). -/
inductive IntParser where
  | r197
  | foreign (k : Nat)
deriving DecidableEq, Repr

/-- `WEIGHTS` (rules R6 and R129, I3): how many parts of the whole the external random source gives each direction. A
property of that source: no rule of the core reads it (log 20). -/
structure Weights where
  east : Nat
  west : Nat
  south : Nat
  north : Nat
deriving DecidableEq, Repr

/-- The parts that one direction has. -/
def Weights.part (w : Weights) : Dir → Nat
  | .east => w.east
  | .west => w.west
  | .south => w.south
  | .north => w.north

/-- All parts together: ten, with rule R6's weights in tenths. -/
def Weights.total (w : Weights) : Nat := w.east + w.west + w.south + w.north

/-- Rule R129's reference mapping from a uniform draw `u` below the total to a direction. For the host's source only. -/
def Weights.referenceDraw (w : Weights) (u : Nat) : Dir :=
  if u < w.east then .east
  else if u < w.east + w.west then .west
  else if u < w.east + w.west + w.south then .south
  else .north

/-- What the rules require of a build's parameters: `W >= 1` and `H >= 1` (R6), at least 9 value bits in a build whose
values are bounded (R216), and the values of `CELL_BITS`, `DIRBITS` and `STEP_BITS` that the rules fix for every build
(R33, R32 and R43). -/
def Config.legalParams (width height cellBits dirBits : Nat) (valueBits stepBits : Option Nat) : Bool :=
  decide (1 ≤ width) && decide (1 ≤ height) && decide (cellBits = 8) && decide (dirBits = 2)
    && valueBits.all (fun n => decide (9 ≤ n)) && decide (stepBits = none)

/-- The parameters of rule R6. `none` for `valueBits`, `stackCap` or `stepBits` is the spec's `UNBOUNDED`. `NCELLS`,
`XBITS`, `YBITS` and `ABITS` follow from `W` and `H`, and are the functions below. The last field makes an illegal
build impossible to write down. -/
structure Config where
  /-- `W`, the grid's width in cells. -/
  width : Nat
  /-- `H`, the grid's height in cells. -/
  height : Nat
  /-- `CELL_BITS`, the width of a cell's code; 8 in every build (D8, I3). Its power of two is the modulus of `p`. -/
  cellBits : Nat
  /-- `DIRBITS`, the width of the direction register and of the port `rnd_dir`; 2 in every build (D6). -/
  dirBits : Nat
  /-- `VALUE_BITS`, the width of a stack value. -/
  valueBits : Option Nat
  /-- `STACK_CAP`, the greatest depth of the stack. -/
  stackCap : Option Nat
  /-- `STEP_BITS`, the width of the step counter; unbounded in every build (R43, D12). -/
  stepBits : Option Nat
  /-- `DIV_MODE`. -/
  divMode : DivMode
  /-- `DUP_EMPTY`. -/
  dupEmpty : DupEmpty
  /-- `PARSE_INT`. -/
  parseInt : IntParser
  /-- `WEIGHTS`. -/
  weights : Weights
  /-- What the rules require of them. -/
  legal : Config.legalParams width height cellBits dirBits valueBits stepBits = true
deriving DecidableEq, Repr

namespace Config

/-- This hardware: every parameter at the value of rule R6's table. -/
def rr25 : Config where
  width := 80
  height := 25
  cellBits := 8
  dirBits := 2
  valueBits := none
  stackCap := none
  stepBits := none
  divMode := .floor
  dupEmpty := .two
  parseInt := .r197
  weights := { east := 3, west := 2, south := 3, north := 2 }
  legal := rfl

/-- `NCELLS = W * H` (rule R6). -/
def ncells (c : Config) : Nat := c.width * c.height

/-- `XBITS`, the smallest width that holds `W - 1` (rule R6, decision D26): 7 in this hardware. DESIGN CHOICE (log 22):
1 where `W` is 1, since the spec names no width that holds 0. -/
def xBits (c : Config) : Nat := Nat.log2 (c.width - 1) + 1

/-- `YBITS`, the smallest width that holds `H - 1` (rule R6, decision D26): 5 in this hardware. DESIGN CHOICE (log 22):
1 where `H` is 1, since the spec names no width that holds 0. -/
def yBits (c : Config) : Nat := Nat.log2 (c.height - 1) + 1

/-- `ABITS`: 11 in this hardware (rule R6, decision D7). DESIGN CHOICE (log 22): in a build of another size, the
smallest width that holds `NCELLS - 1`, and 1 where `NCELLS` is 1; the spec gives no width there. -/
def aBits (c : Config) : Nat := Nat.log2 (c.ncells - 1) + 1

/-- The code of a space, which pads the grid (rules R33 and R243). The source itself fixes it at 32 (rule R10). -/
def space : Code := 0x20

/-- A FREE VALUE (decision D9, I2; log 4): the direction found on `rnd_dir` at the n-th `?` whose draw the state's
list `draws` does not give. Nothing constrains it. -/
opaque freeDraw : Nat → Dir

/-- A FREE VALUE (decision D15, I5; log 13): the integer that the k-th parser other than rule R197's reads from a line.
Nothing constrains it, so what holds of a build with such a parser holds whatever function the parser is. -/
opaque foreignParse : Nat → List Nat → Int

end Config

end Sys2Proof
end

