-- ==== Sys2Proof/Machine/Arith.lean ====
section
/-! DEFINITION. The exact integer arithmetic of rules R8 and R158, and the value ranges of a finite build. -/

namespace Sys2Proof.Machine

/-- `fdiv(b, a)` of rule R8: the floor of `b / a`, for `a` not zero. -/
def fdiv (b a : Int) : Int := Int.fdiv b a

/-- `fmod(b, a) = b - a * fdiv(b, a)` of rule R8, for `a` not zero. -/
def fmod (b a : Int) : Int := b - a * fdiv b a

/-- The truncating quotient, for a build with `DIV_MODE = TRUNC` (rule R8, I1). -/
def tdiv (b a : Int) : Int := Int.tdiv b a

/-- The truncating remainder, for a build with `DIV_MODE = TRUNC` (rule R8, I1). -/
def tmod (b a : Int) : Int := b - a * tdiv b a

/-- What `/` pushes: 0 for a zero divisor, else the quotient in the build's mode (rule R154). -/
def quotient (c : Config) (b a : Int) : Int :=
  if a = 0 then 0
  else match c.divMode with
    | .floor => fdiv b a
    | .trunc => tdiv b a

/-- What `%` pushes: 0 for a zero divisor, else the remainder in the build's mode (rule R155). -/
def remainder (c : Config) (b a : Int) : Int :=
  if a = 0 then 0
  else match c.divMode with
    | .floor => fmod b a
    | .trunc => tmod b a

/-- A truth value as the stack holds it: 1 or 0 (rules R156 and R157). -/
def truth (b : Bool) : Int := if b then 1 else 0

/-- The range of a value of `n` bits: `-2^(n-1) .. 2^(n-1)-1` (rule R216). -/
def inRange (n : Nat) (v : Int) : Bool := decide (-(2 : Int) ^ (n - 1) ≤ v) && decide (v < (2 : Int) ^ (n - 1))

end Sys2Proof.Machine
end

