-- ==== Sys2Proof/Machine/State.lean ====
section
/-! DEFINITION. The machine's state (rule R30), with the ports the core reads and drives, its value after reset, and
the reasons for which the model can stop. -/

namespace Sys2Proof.Machine

/-- The sequencer's states (rule R40): "A model's status type has exactly the six named values". -/
inductive Status where
  | running
  | awaitInt
  | awaitChr
  | halted
  | interrupted
  | faulted
deriving DecidableEq, Repr

/-- Why a finite build faulted (rule R42). The register's `NONE` is `Option.none`. -/
inductive FaultReason where
  | valueOverflow
  | stackOverflow
deriving DecidableEq, Repr

/-- The kind of input an `InputRequested` event asks for (rule R48). -/
inductive InputKind where
  | integer
  | character
deriving DecidableEq, Repr

/-- The event output of a command (rule R48). -/
inductive Event where
  | none
  | directionChanged
  | stackPushed (value : Int)
  | stackPopped (value : Int)
  | cellWritten (x y : Nat) (char : Code)
  | integerOutput (value : Int)
  | characterOutput (char : Int)
  | inputRequested (kind : InputKind)
  | halted
  | interrupted
  | faulted (reason : FaultReason)
deriving DecidableEq, Repr

/-- The result output of a command (rule R48). -/
inductive Result where
  | continue
  | halted
  | interrupted
  | awaitingInputInteger
  | awaitingInputCharacter
  | faulted
deriving DecidableEq, Repr

/-- What the host can do to the core (rules R45 and R46): the three commands, and asserting the input `cancel_req`. -/
inductive HostAction where
  /-- `RESET(image)`: the codes of the cells, row by row (rule R240). -/
  | reset (image : List Code)
  /-- `STEP` (rule R100). -/
  | step
  /-- `RESUME(line)`: a line of natural character codes, without terminator (rule R194). -/
  | resume (line : List Nat)
  /-- `cancel_req` asserted between two commands (rule R46). -/
  | cancelReq
deriving DecidableEq, Repr

/-- The grid's contents: pairs of a linear cell address and a code, addresses strictly rising, and no pair whose code
is the space, which an unlisted cell reads as (log 2). -/
abbrev Memory := List Host.Cell

/-- The state of the core. The first eleven fields after `cfg` are rule R30's architectural state, whole; the rest are
the core's ports (rules R45 to R48). -/
structure State where
  /-- The build's parameters (rule R6). Nothing writes them (log 1). -/
  cfg : Config
  /-- The program grid (R33). -/
  grid : Memory
  /-- The instruction pointer's column (R31). -/
  x : Nat
  /-- The instruction pointer's row (R31). -/
  y : Nat
  /-- The instruction pointer's direction (R32). -/
  dir : Dir
  /-- The operand stack `S` (R34), its top first (log 6). -/
  stack : List Int
  /-- The string-mode flag (R38). -/
  smode : Bool
  /-- The output accumulator, oldest first (R39). -/
  acc : List Int
  /-- The step counter (R43). -/
  steps : Nat
  /-- The sequencer's state (R40). -/
  status : Status
  /-- Why a finite build faulted (R42). -/
  faultReason : Option FaultReason
  /-- A cancellation request not yet acted on (R44). -/
  cancelPending : Bool
  /-- Output port: the last command's event (R48). -/
  event : Event
  /-- The events of the commands since the last `RESET`, oldest first (R228; log 5). -/
  trace : List Event
  /-- Input: what the host does next, oldest first; with nothing listed it issues `STEP` (log 3). -/
  script : List HostAction
  /-- Input port `rnd_dir`: the draws the host supplies for the next `?` steps (R47; log 4). -/
  draws : List Dir
  /-- How many free draws have been taken (log 4). -/
  drawCount : Nat
deriving DecidableEq, Repr

/-- Why a step or a tap stops with a fault. No instruction raises one (rule R210). -/
inductive Fault where
  /-- A tap names a linear address that no cell has (rule R62, I10). Raised by `tapCell`; safe. -/
  | noSuchCell (addr : Nat)
deriving DecidableEq, Repr

/-- Why the model refuses an instruction or a command. -/
inductive Refusal where
  /-- An instruction with no meaning yet. Raised by no arm of `exec`; safe. -/
  | notModelled (mnemonic : String)
  /-- A command before the first `RESET` (rule R242). Raised by `powered`; safe. -/
  | beforeFirstReset
  /-- `RESET` with an image that has not exactly `NCELLS` elements, which is no command of rule R240. Raised by
  `resetCommand`; safe. -/
  | malformedImage (length : Nat)
deriving DecidableEq, Repr

/-- The machine right after `RESET` (rule R241), with the image of the empty text: every cell a space (log 2). -/
def State.reset : State where
  cfg := Config.rr25
  grid := []
  x := 0
  y := 0
  dir := .east
  stack := []
  smode := false
  acc := []
  steps := 0
  status := .running
  faultReason := none
  cancelPending := false
  event := .none
  trace := []
  script := []
  draws := []
  drawCount := 0

end Sys2Proof.Machine
end

