-- ==== Sys2Proof/Machine/Ops.lean ====
section
/-! DEFINITION. The named operations over the grid, the stack, the instruction pointer and the outputs, the ways an
instruction ends (rule R100), and the one entry for a fault and the one for a cancellation. -/

namespace Sys2Proof.Machine

/-! ### The grid as data -/

/-- `MemRead(addr, 1)` (rule R63); an unlisted cell reads as a space. -/
def Memory.read : Memory → Nat → Code
  | [], _ => Config.space
  | (k, v) :: rest, a => if k = a then v else Memory.read rest a

/-- Put an entry in front, unless it says what an unlisted cell reads as anyway. -/
def Memory.cons (a : Nat) (v : Code) (m : Memory) : Memory := if v = Config.space then m else (a, v) :: m

/-- `MemWrite(addr, 1, v)` (rule R64), keeping the canonical form. -/
def Memory.write : Memory → Nat → Code → Memory
  | [], a, v => Memory.cons a v []
  | (k, w) :: rest, a, v =>
    if a < k then Memory.cons a v ((k, w) :: rest)
    else if a = k then Memory.cons a v rest
    else (k, w) :: Memory.write rest a v

/-- The canonical form from address `lo` on, for a grid of `n` cells. -/
def Memory.wfFrom (n : Nat) : Nat → Memory → Bool
  | _, [] => true
  | lo, (k, v) :: rest => decide (lo ≤ k) && decide (k < n) && v != Config.space && Memory.wfFrom n (k + 1) rest

/-- The canonical form of the contents of a grid of `n` cells: addresses strictly rising and below `n`, and no entry
that says space. -/
def Memory.wf (n : Nat) (m : Memory) : Bool := Memory.wfFrom n 0 m

/-- The contents whose cells from address `k` on are the image's codes in order. -/
def Memory.ofImageFrom : Nat → List Code → Memory
  | _, [] => []
  | k, v :: rest => Memory.cons k v (Memory.ofImageFrom (k + 1) rest)

/-- The contents given by a reset image: image element `k` is the cell at linear address `k` (rules R62 and R240). -/
def Memory.ofImage (image : List Code) : Memory := Memory.ofImageFrom 0 image

/-! ### The address encoder -/

/-- `wrapX(i) = fmod(i, W)` (rule R61). -/
def wrapX (c : Config) (i : Int) : Nat := (fmod i c.width).toNat

/-- `wrapY(j) = fmod(j, H)` (rule R61). -/
def wrapY (c : Config) (j : Int) : Nat := (fmod j c.height).toNat

/-- `CellAddr(i, j) = wrapY(j) * W + wrapX(i)` (rule R62). -/
def cellAddr (c : Config) (i j : Int) : Nat := wrapY c j * c.width + wrapX c i

/-- `GridRead(i, j)` (rule R65). -/
def gridRead (s : State) (i j : Int) : Code := s.grid.read (cellAddr s.cfg i j)

/-- The code that `p` stores for a value: its residue by the cell's modulus `2^CELL_BITS`, which is 256 in every build
(rule R66, I3). -/
def toCode (c : Config) (v : Int) : Code := BitVec.ofNat 8 (fmod v ((2 : Int) ^ c.cellBits)).toNat

/-- A cell's code as a stack value, `0..255` (rules R70 and R180). -/
def ofCode (c : Code) : Int := (c.toNat : Int)

/-- `GridWrite(i, j, v)` (rule R66). -/
def gridWrite (i j v : Int) (s : State) : State :=
  { s with grid := s.grid.write (cellAddr s.cfg i j) (toCode s.cfg v) }

/-- The fetch of rule R103: the code of the cell under the instruction pointer. -/
def fetch (s : State) : Code := gridRead s s.x s.y

/-! ### The stack -/

/-- `Pop()` (rule R35): the top, or 0 and no change when the stack is empty. -/
def pop (s : State) : Int × State :=
  match s.stack with
  | [] => (0, s)
  | v :: rest => (v, { s with stack := rest })

/-- The checks of `Push(v)` in their order (rules R36, R217, R216): the reason for which the push fails, if it does. -/
def pushCheck (c : Config) (depth : Nat) (v : Int) : Option FaultReason :=
  if c.stackCap = some depth then some .stackOverflow
  else if c.valueBits.all (fun n => inRange n v) then none
  else some .valueOverflow

/-- `Push(v)` (rule R36). -/
def push (v : Int) (s : State) : Except FaultReason State :=
  match pushCheck s.cfg s.stack.length v with
  | some r => .error r
  | none => .ok { s with stack := v :: s.stack }

/-! ### The instruction pointer -/

/-- `dx(dir)` (rule R32). -/
def dx : Dir → Int
  | .east => 1
  | .west => -1
  | .south => 0
  | .north => 0

/-- `dy(dir)` (rule R32): South is `(0, +1)`. -/
def dy : Dir → Int
  | .east => 0
  | .west => 0
  | .south => 1
  | .north => -1

/-- `Advance()` (rule R104). -/
def advance (s : State) : State :=
  { s with x := wrapX s.cfg (s.x + dx s.dir), y := wrapY s.cfg (s.y + dy s.dir) }

/-- `Advance()`, `n` times. -/
def advanceBy : Nat → State → State
  | 0, s => s
  | n + 1, s => advanceBy n (advance s)

/-- Sample the port `rnd_dir` (rule R47): the host's next draw, or a free value when the host has listed none. -/
def sampleDraw (s : State) : Dir × State :=
  match s.draws with
  | d :: rest => (d, { s with draws := rest })
  | [] => (Config.freeDraw s.drawCount, { s with drawCount := s.drawCount + 1 })

/-! ### The outputs and the ends of a command -/

/-- `Emit(e)` (rule R48): drive the event output, and record it in the trace (rule R228). -/
def emit (e : Event) (s : State) : State := { s with event := e, trace := s.trace ++ [e] }

/-- Count one completed instruction (rule R43). -/
def countStep (s : State) : State := { s with steps := s.steps + 1 }

/-- `COMPLETE(n)` (rules R100 and R102): `n` advances, one more step counted, and the instruction's event. -/
def complete (n : Nat) (e : Event) (s : State) : Host.Outcome State Fault Refusal :=
  .next (emit e (countStep (advanceBy n s)))

/-- `SUSPEND(k)` (rules R100, R195 and R198): wait for a line; no advance and no step counted. -/
def suspend (st : Status) (k : InputKind) (s : State) : Host.Outcome State Fault Refusal :=
  .next (emit (.inputRequested k) { s with status := st })

/-- `HALT` (rules R100 and R200): the terminal status; no advance, one step counted. -/
def halt (s : State) : Host.Outcome State Fault Refusal :=
  .next (emit .halted (countStep { s with status := .halted }))

/-- FAULT ENTRY of a finite build (rule R218), from the state before the command: `status` and `fault_reason` are
written, `Faulted(reason)` is emitted, and nothing else changes. -/
def takeFault (r : FaultReason) (s : State) : Host.Outcome State Fault Refusal :=
  .next (emit (.faulted r) { s with status := .faulted, faultReason := some r })

/-- TAKING A CANCELLATION (rules R101 and R215): only `status` is written, and `Interrupted` is emitted. There is no
return from it (rule R220). -/
def takeCancel (s : State) : Host.Outcome State Fault Refusal :=
  .next (emit .interrupted { s with status := .interrupted })

/-- A command that the status does not take is ignored (rule R106): only the event output is driven, with `NONE`. -/
def ignoreCommand (s : State) : Host.Outcome State Fault Refusal := .next (emit .none s)

end Sys2Proof.Machine
end

