-- ==== Sys2Proof/Machine/Operands.lean ====
section
/-! DEFINITION. The operand forms (rules R83 and R84): operands popped from the stack, `a` first, and a result pushed
as the instruction's last effect before its advance. -/

namespace Sys2Proof.Machine

/-- Push a result and complete with one advance and `StackPushed` of it; when the push fails, the whole command is
discarded and the fault taken from `s0`, the state before the command (rules R36, R89, R102, R218). -/
def pushResult (s0 : State) (v : Int) (s : State) : Host.Outcome State Fault Refusal :=
  match push v s with
  | .ok s' => complete 1 (.stackPushed v) s'
  | .error r => takeFault r s0

/-- The form `a <- Pop(); Push(f(a)); COMPLETE(1)`. -/
def unaryOp (f : Int → Int) (s : State) : Host.Outcome State Fault Refusal :=
  let (a, s1) := pop s
  pushResult s (f a) s1

/-- The form `a <- Pop(); b <- Pop(); Push(f(b, a)); COMPLETE(1)`. -/
def binaryOp (f : Int → Int → Int) (s : State) : Host.Outcome State Fault Refusal :=
  let (a, s1) := pop s
  let (b, s2) := pop s1
  pushResult s (f b a) s2

/-- The form `Push(op - 0x30); COMPLETE(1)` of a digit (rules R83 and R150). -/
def pushDigit (op : Code) (s : State) : Host.Outcome State Fault Refusal := pushResult s (ofCode op - 0x30) s

/-- The form `Push(first); Push(second); COMPLETE(1)`, its pushes checked in order (rule R219); the event carries the
value pushed last (rule R89). -/
def pushTwo (s0 : State) (first second : Int) (s : State) : Host.Outcome State Fault Refusal :=
  match push first s with
  | .ok s' => pushResult s0 second s'
  | .error r => takeFault r s0

/-- The form `dir <- d; COMPLETE(1)`, with `DirectionChanged` whether or not the direction differs (rule R127). -/
def turn (d : Dir) (s : State) : Host.Outcome State Fault Refusal := complete 1 .directionChanged { s with dir := d }

end Sys2Proof.Machine
end

