-- ==== Sys2Proof/Machine/Alu.lean ====
section
/-! DEFINITION. The integer-stack ALU (spec/43_alu.md). -/

namespace Sys2Proof.Machine

/-- `0` (rule R150). -/
def execPush0 (s : State) : Host.Outcome State Fault Refusal := pushDigit 0x30 s

/-- `1` (rule R150). -/
def execPush1 (s : State) : Host.Outcome State Fault Refusal := pushDigit 0x31 s

/-- `2` (rule R150). -/
def execPush2 (s : State) : Host.Outcome State Fault Refusal := pushDigit 0x32 s

/-- `3` (rule R150). -/
def execPush3 (s : State) : Host.Outcome State Fault Refusal := pushDigit 0x33 s

/-- `4` (rule R150). -/
def execPush4 (s : State) : Host.Outcome State Fault Refusal := pushDigit 0x34 s

/-- `5` (rule R150). -/
def execPush5 (s : State) : Host.Outcome State Fault Refusal := pushDigit 0x35 s

/-- `6` (rule R150). -/
def execPush6 (s : State) : Host.Outcome State Fault Refusal := pushDigit 0x36 s

/-- `7` (rule R150). -/
def execPush7 (s : State) : Host.Outcome State Fault Refusal := pushDigit 0x37 s

/-- `8` (rule R150). -/
def execPush8 (s : State) : Host.Outcome State Fault Refusal := pushDigit 0x38 s

/-- `9` (rule R150). -/
def execPush9 (s : State) : Host.Outcome State Fault Refusal := pushDigit 0x39 s

/-- `+` (rule R151). -/
def execAdd (s : State) : Host.Outcome State Fault Refusal := binaryOp (fun b a => a + b) s

/-- `-` (rule R152): the first value popped is the subtrahend. -/
def execSub (s : State) : Host.Outcome State Fault Refusal := binaryOp (fun b a => b - a) s

/-- `*` (rule R153). -/
def execMul (s : State) : Host.Outcome State Fault Refusal := binaryOp (fun b a => a * b) s

/-- `/` (rule R154): the first value popped is the divisor. -/
def execDiv (s : State) : Host.Outcome State Fault Refusal := binaryOp (quotient s.cfg) s

/-- `%` (rule R155): the first value popped is the divisor. -/
def execMod (s : State) : Host.Outcome State Fault Refusal := binaryOp (remainder s.cfg) s

/-- `!` (rule R156). -/
def execNot (s : State) : Host.Outcome State Fault Refusal := unaryOp (fun a => truth (decide (a = 0))) s

/-- Backquote (rule R157): is the value below the top greater than the top? -/
def execGt (s : State) : Host.Outcome State Fault Refusal := binaryOp (fun b a => truth (decide (b > a))) s

end Sys2Proof.Machine
end

