-- ==== Sys2Proof/Machine/Direction.lean ====
section
/-! DEFINITION. Direction and control transfer (spec/41_direction.md). -/

namespace Sys2Proof.Machine

/-- `>` (rule R120). -/
def execGoEast (s : State) : Host.Outcome State Fault Refusal := turn .east s

/-- `<` (rule R121). -/
def execGoWest (s : State) : Host.Outcome State Fault Refusal := turn .west s

/-- `^` (rule R122). -/
def execGoNorth (s : State) : Host.Outcome State Fault Refusal := turn .north s

/-- `v` (rule R123). -/
def execGoSouth (s : State) : Host.Outcome State Fault Refusal := turn .south s

/-- `?` (rule R124): the direction is the draw on `rnd_dir`. -/
def execGoRandom (s : State) : Host.Outcome State Fault Refusal :=
  let (d, s1) := sampleDraw s
  turn d s1

/-- `_` (rule R125): East for a zero, West otherwise. -/
def execIfHoriz (s : State) : Host.Outcome State Fault Refusal :=
  let (a, s1) := pop s
  turn (if a = 0 then .east else .west) s1

/-- `|` (rule R126): South for a zero, North otherwise. -/
def execIfVert (s : State) : Host.Outcome State Fault Refusal :=
  let (a, s1) := pop s
  turn (if a = 0 then .south else .north) s1

/-- `#` (rule R128): two advances. -/
def execBridge (s : State) : Host.Outcome State Fault Refusal := complete 2 .none s

end Sys2Proof.Machine
end

