-- ==== Sys2Proof/Machine/GridAccess.lean ====
section
/-! DEFINITION. Grid access (spec/45_grid_access.md). The first value popped is the x coordinate. -/

namespace Sys2Proof.Machine

/-- `g` (rules R180 and R181). -/
def execGet (s : State) : Host.Outcome State Fault Refusal := binaryOp (fun b a => ofCode (gridRead s a b)) s

/-- `p` (rule R182): pops x, then y, then the value. -/
def execPut (s : State) : Host.Outcome State Fault Refusal :=
  let (a, s1) := pop s
  let (b, s2) := pop s1
  let (v, s3) := pop s2
  complete 1 (.cellWritten (wrapX s.cfg a) (wrapY s.cfg b) (toCode s.cfg v)) (gridWrite a b v s3)

end Sys2Proof.Machine
end

