-- ==== Sys2Proof/Machine/InOut.lean ====
section
/-! DEFINITION. Output, input and halt (spec/46_io_halt.md), with what `RESUME` computes from a line. -/

namespace Sys2Proof.Machine

/-- `.` (rule R190): the accumulator is not written. -/
def execOutInt (s : State) : Host.Outcome State Fault Refusal :=
  let (a, s1) := pop s
  complete 1 (.integerOutput a) s1

/-- `,` (rule R192): the popped integer is appended and output as it is. -/
def execOutChr (s : State) : Host.Outcome State Fault Refusal :=
  let (a, s1) := pop s
  complete 1 (.characterOutput a) { s1 with acc := s1.acc ++ [a] }

/-- `&` at its `STEP` (rule R195). -/
def execInInt (s : State) : Host.Outcome State Fault Refusal := suspend .awaitInt .integer s

/-- `~` at its `STEP` (rule R198). -/
def execInChr (s : State) : Host.Outcome State Fault Refusal := suspend .awaitChr .character s

/-- `@` (rule R200). -/
def execHalt (s : State) : Host.Outcome State Fault Refusal := halt s

/-! ### The line of a RESUME -/

/-- The white space that `PARSE_INT` trims (rule R197): tab, LF, VT, FF, CR and space. -/
def isWhite (c : Nat) : Bool := [0x09, 0x0A, 0x0B, 0x0C, 0x0D, 0x20].contains c

/-- An ASCII digit (rule R197). -/
def isDigit (c : Nat) : Bool := decide (0x30 ≤ c) && decide (c ≤ 0x39)

/-- A line without its leading and trailing white space (rule R197). -/
def trim (line : List Nat) : List Nat := ((line.dropWhile isWhite).reverse.dropWhile isWhite).reverse

/-- The decimal value of a sequence of digits, most significant first (rule R197). -/
def decimalValue (ds : List Nat) : Nat := ds.foldl (fun v d => v * 10 + (d - 0x30)) 0

/-- Is this one or more digits, and nothing else? -/
def allDigits (ds : List Nat) : Bool := !ds.isEmpty && ds.all isDigit

/-- The function of rule R197, which is `PARSE_INT` in this hardware. -/
def parseInt (line : List Nat) : Int :=
  let t := trim line
  if t.head? = some 0x2D && allDigits t.tail then -(decimalValue t.tail : Int)
  else if t.head? = some 0x2B && allDigits t.tail then (decimalValue t.tail : Int)
  else if allDigits t then (decimalValue t : Int)
  else 0

/-- `PARSE_INT(line)` of the build (rule R196): rule R197's function, or another that the build takes (I5, log 13). -/
def parseLine (c : Config) (line : List Nat) : Int :=
  match c.parseInt with
  | .r197 => parseInt line
  | .foreign k => Config.foreignParse k line

/-- What a completed `~` pushes: the line's first code, or 0 for an empty line (rule R199). -/
def firstCode (line : List Nat) : Int := (line.headD 0 : Nat)

/-- The rest of `RESUME(line)` once its value is known (rule R193): push, advance, count, run again. -/
def resumeWith (v : Int) (s : State) : Host.Outcome State Fault Refusal :=
  match push v s with
  | .ok s' => complete 1 (.stackPushed v) { s' with status := .running }
  | .error r => takeFault r s

end Sys2Proof.Machine
end

