-- ==== Sys2Proof/Syntax.lean ====
section
/-! DEFINITION. The instructions: one constructor for each row of spec/opcode_table.json (rules R82, R85 and R86). -/

namespace Sys2Proof

/-- The RR25-2D instructions. All operands are implicit (rule R84); only the string-mode push and the no-op of an
unrecognised code carry the fetched code. -/
inductive Instr where
  /-- `>` (R120) -/
  | goEast
  /-- `<` (R121) -/
  | goWest
  /-- `^` (R122) -/
  | goNorth
  /-- `v` (R123) -/
  | goSouth
  /-- `?` (R124) -/
  | goRandom
  /-- `_` (R125) -/
  | ifHoriz
  /-- `|` (R126) -/
  | ifVert
  /-- `"` outside string mode (R140) -/
  | strOn
  /-- `0` (R150) -/
  | push0
  /-- `1` (R150) -/
  | push1
  /-- `2` (R150) -/
  | push2
  /-- `3` (R150) -/
  | push3
  /-- `4` (R150) -/
  | push4
  /-- `5` (R150) -/
  | push5
  /-- `6` (R150) -/
  | push6
  /-- `7` (R150) -/
  | push7
  /-- `8` (R150) -/
  | push8
  /-- `9` (R150) -/
  | push9
  /-- `+` (R151) -/
  | add
  /-- `-` (R152) -/
  | sub
  /-- `*` (R153) -/
  | mul
  /-- `/` (R154) -/
  | div
  /-- `%` (R155) -/
  | mod
  /-- `!` (R156) -/
  | not
  /-- backquote (R157) -/
  | gt
  /-- `:` (R170) -/
  | dup
  /-- `\` (R171) -/
  | swap
  /-- `$` (R172) -/
  | drop
  /-- `.` (R190) -/
  | outInt
  /-- `,` (R192) -/
  | outChr
  /-- `#` (R128) -/
  | bridge
  /-- `g` (R180) -/
  | get
  /-- `p` (R182) -/
  | put
  /-- `&` at its `STEP` (R195); its completion is the command `RESUME` (R196) -/
  | inInt
  /-- `~` at its `STEP` (R198); its completion is the command `RESUME` (R199) -/
  | inChr
  /-- `@` (R200) -/
  | halt
  /-- space (R107) -/
  | nop
  /-- any code but the quote, in string mode (R141) -/
  | strPush (op : Code)
  /-- the quote, in string mode (R142) -/
  | strOff
  /-- any code that rule R82 does not list, outside string mode (R85, R107) -/
  | nopOther (op : Code)
deriving DecidableEq, Repr

end Sys2Proof
end

