-- ==== Sys2Proof/Decode.lean ====
section
/-! DEFINITION. The decoder, total on any cells and on both values of `smode` (rules R80 to R88), then the encoder. -/

namespace Sys2Proof

/-- Why a decode can fail: there was no cell to read. No cell is refused (rules R85 and R87). -/
inductive DecodeError where
  /-- The sequence of cells is empty. Raised by `decode`; safe, since a fetch always reads one cell (rule R103). -/
  | noCell
deriving DecidableEq, Repr

/-- The rows of rule R82 for direction and control transfer. -/
def directionRows : List (Code × Instr) :=
  [(0x3E, .goEast), (0x3C, .goWest), (0x5E, .goNorth), (0x76, .goSouth), (0x3F, .goRandom),
   (0x5F, .ifHoriz), (0x7C, .ifVert), (0x23, .bridge)]

/-- The rows of rule R82 for the digits; the pushed value is `op - 0x30` (rule R83). -/
def digitRows : List (Code × Instr) :=
  [(0x30, .push0), (0x31, .push1), (0x32, .push2), (0x33, .push3), (0x34, .push4),
   (0x35, .push5), (0x36, .push6), (0x37, .push7), (0x38, .push8), (0x39, .push9)]

/-- The rows of rule R82 for arithmetic, logic and the stack. -/
def aluRows : List (Code × Instr) :=
  [(0x2B, .add), (0x2D, .sub), (0x2A, .mul), (0x2F, .div), (0x25, .mod), (0x21, .not), (0x60, .gt),
   (0x3A, .dup), (0x5C, .swap), (0x24, .drop)]

/-- The rows of rule R82 for string mode, grid access, input, output, halt and the space. -/
def otherRows : List (Code × Instr) :=
  [(0x22, .strOn), (0x67, .get), (0x70, .put), (0x2E, .outInt), (0x2C, .outChr), (0x26, .inInt),
   (0x7E, .inChr), (0x40, .halt), (0x20, .nop)]

/-- The opcode map of rule R82: the 37 codes recognised with `smode = 0`. -/
def opcodeRows : List (Code × Instr) := directionRows ++ digitRows ++ aluRows ++ otherRows

/-- Decoding with `smode = 0`: the row of rule R82, else the no-op of rule R85. -/
def decodeNormal (op : Code) : Instr :=
  match opcodeRows.find? (fun r => r.1 == op) with
  | some r => r.2
  | none => .nopOther op

/-- Decoding with `smode = 1`: the quote ends string mode, every other code is data (rules R86, R141, R142). -/
def decodeString (op : Code) : Instr := if op = 0x22 then .strOff else .strPush op

/-- `Decode(smode, op)` of rule R86. -/
def decodeCell (smode : Bool) (op : Code) : Instr :=
  match smode with
  | true => decodeString op
  | false => decodeNormal op

/-- Decoding a sequence of cells: one instruction takes exactly one cell (rule R81). -/
def decode (smode : Bool) : List Code → Except DecodeError (Instr × List Code)
  | [] => .error .noCell
  | op :: rest => .ok (decodeCell smode op, rest)

/-- The value of `smode` with which a cell reads as the instruction (rules R86 and R87). -/
def Instr.stringMode : Instr → Bool
  | .strPush _ | .strOff => true
  | .goEast | .goWest | .goNorth | .goSouth | .goRandom | .ifHoriz | .ifVert | .strOn
  | .push0 | .push1 | .push2 | .push3 | .push4 | .push5 | .push6 | .push7 | .push8 | .push9
  | .add | .sub | .mul | .div | .mod | .not | .gt | .dup | .swap | .drop | .outInt | .outChr
  | .bridge | .get | .put | .inInt | .inChr | .halt | .nop | .nopOther _ => false

/-- The encoder: the code of a well-formed instruction, from the binary column of rule R82's table. -/
def encode : Instr → Code
  | .goEast => 0b00111110
  | .goWest => 0b00111100
  | .goNorth => 0b01011110
  | .goSouth => 0b01110110
  | .goRandom => 0b00111111
  | .ifHoriz => 0b01011111
  | .ifVert => 0b01111100
  | .strOn => 0b00100010
  | .push0 => 0b00110000
  | .push1 => 0b00110001
  | .push2 => 0b00110010
  | .push3 => 0b00110011
  | .push4 => 0b00110100
  | .push5 => 0b00110101
  | .push6 => 0b00110110
  | .push7 => 0b00110111
  | .push8 => 0b00111000
  | .push9 => 0b00111001
  | .add => 0b00101011
  | .sub => 0b00101101
  | .mul => 0b00101010
  | .div => 0b00101111
  | .mod => 0b00100101
  | .not => 0b00100001
  | .gt => 0b01100000
  | .dup => 0b00111010
  | .swap => 0b01011100
  | .drop => 0b00100100
  | .outInt => 0b00101110
  | .outChr => 0b00101100
  | .bridge => 0b00100011
  | .get => 0b01100111
  | .put => 0b01110000
  | .inInt => 0b00100110
  | .inChr => 0b01111110
  | .halt => 0b01000000
  | .nop => 0b00100000
  | .strPush op => op
  | .strOff => 0b00100010
  | .nopOther op => op

/-- The first cell of an instruction whose bits are `w`, numbered as spec/opcode_table.json numbers them, of which the
table gives `nbits`. -/
def tableCell (nbits w : Nat) : Code := BitVec.ofNat 8 (w % 2 ^ nbits)

/-- The instruction the decoder reads from a table word. The word says nothing of `smode`; it is read with
`smode = 0`, the value at reset (DESIGN CHOICE, log 9). -/
def decodeTableWord (nbits w : Nat) : Option Instr :=
  match decode false [tableCell nbits w] with
  | .ok (i, _) => some i
  | .error _ => none

end Sys2Proof
end

