-- ==== Sys2Proof/Machine/Sequencer.lean ====
section
/-! DEFINITION. The sequencer's own instructions, the two no-ops, and what a `STEP` fetches (spec/40_sequencer.md). -/

namespace Sys2Proof.Machine

/-- The space (rule R107). -/
def execNop (s : State) : Host.Outcome State Fault Refusal := complete 1 .none s

/-- An unrecognised code (rules R85 and R107): its code plays no part. -/
def execNopOther (_op : Code) (s : State) : Host.Outcome State Fault Refusal := complete 1 .none s

/-- The instruction under the instruction pointer: fetched (rule R103) and decoded with `smode` (rule R86). -/
def currentInstr (s : State) : Instr := decodeCell s.smode (fetch s)

end Sys2Proof.Machine
end

