-- ==== Sys2Proof/Machine/StackOps.lean ====
section
/-! DEFINITION. Stack manipulation (spec/44_stack.md). -/

namespace Sys2Proof.Machine

/-- `:` (rule R170), in both readings of `DUP_EMPTY`: pop and push twice (this hardware), or push the top, or 0 when
the stack is empty, once more. -/
def execDup (s : State) : Host.Outcome State Fault Refusal :=
  match s.cfg.dupEmpty with
  | .two =>
    let (v, s1) := pop s
    pushTwo s v v s1
  | .one => pushResult s (pop s).1 s

/-- `\` (rule R171): the event carries the new top. -/
def execSwap (s : State) : Host.Outcome State Fault Refusal :=
  let (a, s1) := pop s
  let (b, s2) := pop s1
  pushTwo s a b s2

/-- `$` (rule R172). -/
def execDrop (s : State) : Host.Outcome State Fault Refusal :=
  let (v, s1) := pop s
  complete 1 (.stackPopped v) s1

end Sys2Proof.Machine
end

