-- ==== Sys2Proof/Machine/Flags.lean ====
section
/-! DEFINITION. The core's only flag, `smode` (rules R38 and R51): there are no condition codes, and no arithmetic
result sets a flag. -/

namespace Sys2Proof.Machine

/-- Write the string-mode flag (rules R140 and R142). -/
def setStringMode (b : Bool) (s : State) : State := { s with smode := b }

end Sys2Proof.Machine
end

