-- ==== Sys2Proof/Machine/StringMode.lean ====
section
/-! DEFINITION. String mode (spec/42_string_mode.md). -/

namespace Sys2Proof.Machine

/-- `"` outside string mode (rule R140). -/
def execStrOn (s : State) : Host.Outcome State Fault Refusal := complete 1 .none (setStringMode true s)

/-- A code in string mode (rule R141). -/
def execStrPush (op : Code) (s : State) : Host.Outcome State Fault Refusal := pushResult s (ofCode op) s

/-- `"` in string mode (rule R142). -/
def execStrOff (s : State) : Host.Outcome State Fault Refusal := complete 1 .none (setStringMode false s)

end Sys2Proof.Machine
end

