-- ==== Sys2Proof/Machine/Dispatch.lean ====
section
/-! DEFINITION. One arm per instruction: `Execute(ins)` with its completion (rule R100). -/

namespace Sys2Proof.Machine

def exec (i : Instr) (s : State) : Host.Outcome State Fault Refusal :=
  match i with
  | .goEast => Sys2Proof.Machine.execGoEast s
  | .goWest => Sys2Proof.Machine.execGoWest s
  | .goNorth => Sys2Proof.Machine.execGoNorth s
  | .goSouth => Sys2Proof.Machine.execGoSouth s
  | .goRandom => Sys2Proof.Machine.execGoRandom s
  | .ifHoriz => Sys2Proof.Machine.execIfHoriz s
  | .ifVert => Sys2Proof.Machine.execIfVert s
  | .strOn => Sys2Proof.Machine.execStrOn s
  | .push0 => Sys2Proof.Machine.execPush0 s
  | .push1 => Sys2Proof.Machine.execPush1 s
  | .push2 => Sys2Proof.Machine.execPush2 s
  | .push3 => Sys2Proof.Machine.execPush3 s
  | .push4 => Sys2Proof.Machine.execPush4 s
  | .push5 => Sys2Proof.Machine.execPush5 s
  | .push6 => Sys2Proof.Machine.execPush6 s
  | .push7 => Sys2Proof.Machine.execPush7 s
  | .push8 => Sys2Proof.Machine.execPush8 s
  | .push9 => Sys2Proof.Machine.execPush9 s
  | .add => Sys2Proof.Machine.execAdd s
  | .sub => Sys2Proof.Machine.execSub s
  | .mul => Sys2Proof.Machine.execMul s
  | .div => Sys2Proof.Machine.execDiv s
  | .mod => Sys2Proof.Machine.execMod s
  | .not => Sys2Proof.Machine.execNot s
  | .gt => Sys2Proof.Machine.execGt s
  | .dup => Sys2Proof.Machine.execDup s
  | .swap => Sys2Proof.Machine.execSwap s
  | .drop => Sys2Proof.Machine.execDrop s
  | .outInt => Sys2Proof.Machine.execOutInt s
  | .outChr => Sys2Proof.Machine.execOutChr s
  | .bridge => Sys2Proof.Machine.execBridge s
  | .get => Sys2Proof.Machine.execGet s
  | .put => Sys2Proof.Machine.execPut s
  | .inInt => Sys2Proof.Machine.execInInt s
  | .inChr => Sys2Proof.Machine.execInChr s
  | .halt => Sys2Proof.Machine.execHalt s
  | .nop => Sys2Proof.Machine.execNop s
  | .strPush op => Sys2Proof.Machine.execStrPush op s
  | .strOff => Sys2Proof.Machine.execStrOff s
  | .nopOther op => Sys2Proof.Machine.execNopOther op s

end Sys2Proof.Machine
end

