-- ==== Sys2Proof/Machine/Commands.lean ====
section
/-! DEFINITION. The commands of rule R45, the input `cancel_req`, the refusal before the first `RESET`, and the
reference loader (spec/40_sequencer.md, 46_io_halt.md, 70_reset_and_hazards.md). -/

namespace Sys2Proof.Machine

/-- `STEP` (rules R100, R101 and R106): ignored unless running; a pending cancellation wins (rule R214); else the
instruction under the instruction pointer is executed. -/
def stepCommand (s : State) : Host.Outcome State Fault Refusal :=
  match s.status with
  | .running => if s.cancelPending then takeCancel s else exec (currentInstr s) s
  | .awaitInt | .awaitChr | .halted | .interrupted | .faulted => ignoreCommand s

/-- `RESUME(line)` (rules R193, R196 and R199): completes the input that `status` names; ignored in another status
(rule R106). It does not read `cancel_pending` (rule R221). -/
def resumeCommand (line : List Nat) (s : State) : Host.Outcome State Fault Refusal :=
  match s.status with
  | .awaitInt => resumeWith (parseLine s.cfg line) s
  | .awaitChr => resumeWith (firstCode line) s
  | .running | .halted | .interrupted | .faulted => ignoreCommand s

/-- The state after `RESET(image)` (rules R240 and R241). The build, the host's script and its random source are not the
core's to reset (R241, D28); the trace starts again with the run (log 5). -/
def resetState (image : List Code) (s : State) : State :=
  { s with
    grid := Memory.ofImage image
    x := 0
    y := 0
    dir := .east
    stack := []
    smode := false
    acc := []
    steps := 0
    status := .running
    faultReason := none
    cancelPending := false
    event := .none
    trace := [] }

/-- `RESET(image)` (rule R240), legal in every status. An image that has not `NCELLS` elements is refused (log 11). -/
def resetCommand (image : List Code) (s : State) : Host.Outcome State Fault Refusal :=
  if image.length = s.cfg.ncells then .next (resetState image s) else .refused (.malformedImage image.length)

/-- `cancel_req` asserted (rules R44 and R46): the latch is set, and nothing else happens. It is an input, not a
command, and drives no output. -/
def cancelRequest (s : State) : Host.Outcome State Fault Refusal := .next { s with cancelPending := true }

/-- What one action of the host does to the core. -/
def command (c : HostAction) (s : State) : Host.Outcome State Fault Refusal :=
  match c with
  | .reset image => resetCommand image s
  | .step => stepCommand s
  | .resume line => resumeCommand line s
  | .cancelReq => cancelRequest s

/-- The host's next action: the head of the script, or `STEP` when the script is empty (log 3). -/
def runScript (s : State) : Host.Outcome State Fault Refusal :=
  match s.script with
  | [] => command .step s
  | c :: rest => command c { s with script := rest }

/-- The core from power-on (rule R242): it has no state before the first `RESET`, and every other action is refused
until then. -/
def powered (c : HostAction) : Option State → Host.Outcome State Fault Refusal
  | some s => command c s
  | none =>
    match c with
    | .reset image => resetCommand image State.reset
    | .step | .resume _ | .cancelReq => .refused .beforeFirstReset

/-! ### The reference loader -/

/-- Put a code at the front of the first of some lines. -/
def consLine (c : Code) : List (List Code) → List (List Code)
  | [] => [[c]]
  | l :: ls => (c :: l) :: ls

/-- Split a text at its line terminators CR LF, LF and CR (rule R243). `afterCR` says that the code before was a CR,
which has ended its line already, so that a LF now belongs to it. -/
def splitLines (afterCR : Bool) : List Code → List (List Code)
  | [] => [[]]
  | c :: rest =>
    if c = 0x0A then (if afterCR then splitLines false rest else [] :: splitLines false rest)
    else if c = 0x0D then [] :: splitLines true rest
    else consLine c (splitLines false rest)

/-- `LOAD(text)` (rule R243): the reset image of a program text, row by row, padded with spaces and cut to the grid. -/
def load (c : Config) (text : List Code) : List Code :=
  let lines := splitLines false text
  (List.range c.ncells).map (fun k => ((lines.getD (k / c.width) []).getD (k % c.width) Config.space))

end Sys2Proof.Machine
end

