-- ==== Sys2Proof/Machine/Step.lean ====
section
/-! DEFINITION. One step of the machine, and how an instruction is placed where the next step fetches it. -/

namespace Sys2Proof.Machine

/-- One step: the host's next action and what the core does with it. -/
def step (s : State) : Host.Outcome State Fault Refusal := runScript s

/-- The state with an instruction's cell under the instruction pointer, and everything a `STEP` needs to fetch and run
exactly it: the status running, no cancellation pending, a `STEP` as the host's next action, and `smode = 0`, with
which a table word is read (log 9). -/
def State.withFetchWord (s : State) (nbits w : Nat) : State :=
  { s with
    grid := s.grid.write (cellAddr s.cfg s.x s.y) (tableCell nbits w)
    smode := false
    status := .running
    cancelPending := false
    script := .step :: s.script }

end Sys2Proof.Machine
end

