-- ==== Sys2Proof/Machine/Taps.lean ====
section
/-! DEFINITION. What the host sees between commands (rules R48 and R50): the result, the numeric codes of the
registers, the stack as the spec writes it, and a cell by its linear address. Reading a tap changes nothing. -/

namespace Sys2Proof.Machine

/-- The 2-bit code of the direction register (rule R32). -/
def dirCode : Dir → BitVec 2
  | .east => 0
  | .west => 1
  | .south => 2
  | .north => 3

/-- The direction of a 2-bit code on `rnd_dir` (rules R32 and R47): all four codes are legal. -/
def dirOfCode (b : BitVec 2) : Dir :=
  if b = 0 then .east else if b = 1 then .west else if b = 2 then .south else .north

/-- The 3-bit code of the status register (rule R40). -/
def statusCode : Status → BitVec 3
  | .running => 0
  | .awaitInt => 1
  | .awaitChr => 2
  | .halted => 3
  | .interrupted => 4
  | .faulted => 5

/-- The 2-bit code of the register `fault_reason` (rule R42). -/
def faultCode : Option FaultReason → BitVec 2
  | none => 0
  | some .valueOverflow => 1
  | some .stackOverflow => 2

/-- The number of an input kind (rule R48). -/
def inputKindCode : InputKind → Nat
  | .integer => 0
  | .character => 1

/-- `event.kind` (rule R48). -/
def eventKind : Event → Nat
  | .none => 0
  | .directionChanged => 1
  | .stackPushed _ => 2
  | .stackPopped _ => 3
  | .cellWritten _ _ _ => 4
  | .integerOutput _ => 5
  | .characterOutput _ => 6
  | .inputRequested _ => 7
  | .halted => 8
  | .interrupted => 9
  | .faulted _ => 10

/-- The number of a result (rule R48). -/
def resultCode : Result → Nat
  | .continue => 0
  | .halted => 1
  | .interrupted => 2
  | .awaitingInputInteger => 3
  | .awaitingInputCharacter => 4
  | .faulted => 5

/-- The result output, a function of the status after the command (rule R48). -/
def resultOf : Status → Result
  | .running => .continue
  | .awaitInt => .awaitingInputInteger
  | .awaitChr => .awaitingInputCharacter
  | .halted => .halted
  | .interrupted => .interrupted
  | .faulted => .faulted

/-- The result that the last command returned (rule R48). -/
def State.result (s : State) : Result := resultOf s.status

/-- The stack as the spec writes it: bottom first, its top last (rule R34). -/
def State.stackBottomFirst (s : State) : List Int := s.stack.reverse

/-- The tap on one cell, by its linear address (rules R50 and R62). An address that no cell has is a fault (log 10). -/
def tapCell (addr : Nat) (s : State) : Host.Outcome Code Fault Refusal :=
  if addr < s.cfg.ncells then .next (s.grid.read addr) else .fault (.noSuchCell addr)

end Sys2Proof.Machine
end

