-- ==== Sys2Proof/Safety.lean ====
section
/-! DEFINITION. What counts as a safe run, in the terms that the statements use: the machine's invariant, the end of a
run, which state a command may not touch, and the next states of the rules written out field by field. -/

namespace Sys2Proof.Machine

/-! ### The end of a run -/

/-- A run has ended exactly when the status is terminal (rule R108). -/
def Status.terminal : Status → Bool
  | .halted | .interrupted | .faulted => true
  | .running | .awaitInt | .awaitChr => false

/-- The core waits for a line (rules R193 and R229). -/
def Status.waiting : Status → Bool
  | .awaitInt | .awaitChr => true
  | .running | .halted | .interrupted | .faulted => false

/-- A run that ended by its own `@`. A faulted or a cancelled end is never a successful one (rules R212 and R218). -/
def State.endedWell (s : State) : Bool := decide (s.status = .halted)

/-- The architectural state of rule R30, but for the cancellation latch, is the same in both. -/
def SameButLatch (s t : State) : Prop :=
  t.grid = s.grid ∧ t.x = s.x ∧ t.y = s.y ∧ t.dir = s.dir ∧ t.stack = s.stack ∧ t.smode = s.smode ∧
  t.acc = s.acc ∧ t.steps = s.steps ∧ t.status = s.status ∧ t.faultReason = s.faultReason

/-! ### The invariant -/

/-- What the rules promise of every state that a run reaches. -/
structure Inv (s : State) : Prop where
  /-- R31. -/
  x_lt : s.x < s.cfg.width
  /-- R31. -/
  y_lt : s.y < s.cfg.height
  /-- The grid's contents are in canonical form and name no cell beyond `NCELLS` (R62, log 2). -/
  grid_wf : s.grid.wf s.cfg.ncells = true
  /-- R36, R217: the stack never grows past the cap. -/
  depth_le : s.cfg.stackCap.all (fun k => decide (s.stack.length ≤ k)) = true
  /-- R36, R216: every value on the stack fits. -/
  stack_fits : s.cfg.valueBits.all (fun n => s.stack.all (inRange n)) = true
  /-- R30, R39: every element of the accumulator fits. -/
  acc_fits : s.cfg.valueBits.all (fun n => s.acc.all (inRange n)) = true
  /-- R42: `fault_reason` is written exactly when `status` becomes `FAULTED`. -/
  fault_iff : s.status = .faulted ↔ s.faultReason ≠ none
  /-- R42, R216: only a build with bounded values overflows one. -/
  value_fault : s.faultReason = some .valueOverflow → s.cfg.valueBits ≠ none
  /-- R42, R217: only a build with a capped stack overflows it. -/
  stack_fault : s.faultReason = some .stackOverflow → s.cfg.stackCap ≠ none
  /-- R193, R195: during the wait of `&` the instruction pointer stays on a `&`, read outside string mode. -/
  on_inInt : s.status = .awaitInt → s.smode = false ∧ fetch s = 0x26
  /-- R193, R198: the same for `~`. -/
  on_inChr : s.status = .awaitChr → s.smode = false ∧ fetch s = 0x7E
  /-- R200: the instruction pointer stays on the `@`. -/
  on_halt : s.status = .halted → s.smode = false ∧ fetch s = 0x40
  /-- R44, R101: only a pending request interrupts, and acting on it does not clear it. -/
  interrupted_by : s.status = .interrupted → s.cancelPending = true

/-! ### The next states of the rules, field by field -/

/-- A coordinate moved by `d` on an axis of `m` cells, with wraparound (rules R61 and R104). -/
def movedOn (m p : Nat) (d : Int) : Nat := (((p : Int) + d) % (m : Int)).toNat

/-- The state in which a `COMPLETE(1)` leaves an instruction whose own writes gave `s` (rules R100, R102, R104): one
cell further along `dir`, one more step counted, and the event `e` driven. -/
def State.completed (s : State) (e : Event) : State :=
  { s with
    x := movedOn s.cfg.width s.x (dx s.dir)
    y := movedOn s.cfg.height s.y (dy s.dir)
    steps := s.steps + 1
    event := e
    trace := s.trace ++ [e] }

/-- The state in which only the event output is driven. -/
def State.reporting (s : State) (e : Event) : State := { s with event := e, trace := s.trace ++ [e] }

/-- The state in which a fault with reason `r` leaves a command that began in `s` (rule R218). -/
def State.faultedBy (s : State) (r : FaultReason) : State :=
  { s with status := .faulted, faultReason := some r, event := .faulted r, trace := s.trace ++ [.faulted r] }

/-- The n-th value from the top of the stack, from 0; 0 where the stack is not that deep (rule R35). -/
def State.nth (s : State) (n : Nat) : Int := s.stack.getD n 0

/-- A build takes a push of `v` onto a stack of the given depth (rules R36, R216, R217). Always so in this hardware. -/
def Accepts (c : Config) (depth : Nat) (v : Int) : Prop :=
  c.stackCap ≠ some depth ∧ ∀ n, c.valueBits = some n → -(2 : Int) ^ (n - 1) ≤ v ∧ v < (2 : Int) ^ (n - 1)

/-- A build refuses a push of `v` onto a stack of the given depth for its width alone (rules R216 and R217). -/
def TooWide (c : Config) (depth : Nat) (v : Int) : Prop :=
  c.stackCap ≠ some depth ∧ ∃ n, c.valueBits = some n ∧ (v < -(2 : Int) ^ (n - 1) ∨ (2 : Int) ^ (n - 1) ≤ v)

/-- The build has neither bound (rule R6): values and depth are unbounded, as in this hardware. -/
def Unbounded (c : Config) : Prop := c.valueBits = none ∧ c.stackCap = none

/-- The linear address of a cell named by any two integers (rules R61 and R62). -/
def addressOf (c : Config) (i j : Int) : Nat := (j % (c.height : Int)).toNat * c.width + (i % (c.width : Int)).toNat

/-- Two stacks that no sequence of pops can tell apart: they agree on every value, an absent one counting as 0. -/
def SameValues (l m : List Int) : Prop := ∀ n, l.getD n 0 = m.getD n 0

/-- Two states that agree on everything a program or an event can show: all of the state but the depth of the stack and
the build's reading of `DUP_EMPTY` (rule R170). -/
def Indistinct (s t : State) : Prop :=
  SameValues s.stack t.stack ∧
  t = { s with stack := t.stack, cfg := t.cfg } ∧
  t.cfg = { s.cfg with dupEmpty := t.cfg.dupEmpty }

end Sys2Proof.Machine
end

