-- ==== Sys2Proof/WellFormed.lean ====
section
/-! DEFINITION. Which instruction terms stand for a cell of the machine: the codes that the two operand-carrying
constructors may hold. -/

namespace Sys2Proof

/-- The codes that rule R85 lists as unrecognised outside string mode, range by range as the rule writes them. -/
def Code.unrecognised (op : Code) : Bool :=
  let n := op.toNat
  decide (n ≤ 0x1F) || (decide (0x27 ≤ n) && decide (n ≤ 0x29)) || decide (n = 0x3B) || decide (n = 0x3D)
    || (decide (0x41 ≤ n) && decide (n ≤ 0x5B)) || decide (n = 0x5D) || (decide (0x61 ≤ n) && decide (n ≤ 0x66))
    || (decide (0x68 ≤ n) && decide (n ≤ 0x6F)) || (decide (0x71 ≤ n) && decide (n ≤ 0x75))
    || (decide (0x77 ≤ n) && decide (n ≤ 0x7B)) || decide (n = 0x7D) || decide (0x7F ≤ n)

/-- An instruction is well formed when some cell, read in some mode, is that instruction: string mode pushes every code
but the quote (rule R141), and the other no-op holds one of the codes of rule R85. -/
def Instr.wf : Instr → Bool
  | .strPush op => op != 0x22
  | .nopOther op => op.unrecognised
  | .goEast | .goWest | .goNorth | .goSouth | .goRandom | .ifHoriz | .ifVert | .strOn
  | .push0 | .push1 | .push2 | .push3 | .push4 | .push5 | .push6 | .push7 | .push8 | .push9
  | .add | .sub | .mul | .div | .mod | .not | .gt | .dup | .swap | .drop | .outInt | .outChr
  | .bridge | .get | .put | .inInt | .inChr | .halt | .nop | .strOff => true

end Sys2Proof
end

