-- ==== Sys2Proof/Certificates/Slice0/Obligations.lean ====
section
/-! DEFINITION. The statements for the provers, in the order of the spec's files. `s.nth n` is the n-th value from the
top of the stack (0 where there is none), and `s.completed e` is the state `s` moved one cell along its direction, with
one more step counted and the event `e` driven; both are written out in Sys2Proof/Safety.lean. `s.completed`,
`s.reporting` and `s.faultedBy` also append the event to the trace, which is the model's own record (log 5), and a grid
that is `wf` is in the model's own canonical form (log 2). -/

open Sys2Proof Sys2Proof.Machine

/-! ### Arithmetic, the address encoder and the grid -/

/-- R8: `fdiv` is the floor of the quotient (the greatest integer not above it), `fmod` is what it leaves, is 0 or has
the divisor's sign, and is smaller than the divisor. That floor is the convention is the spec's decision D4. -/
def Obligations.FloorDivisionAndRemainder : Prop :=
  ∀ b a : Int, a ≠ 0 →
    b = a * fdiv b a + fmod b a ∧
    (0 < a → 0 ≤ fmod b a ∧ fmod b a < a) ∧
    (a < 0 → a < fmod b a ∧ fmod b a ≤ 0) ∧
    (∀ q : Int, (q : Rat) ≤ (b : Rat) / (a : Rat) ↔ q ≤ fdiv b a)

/-- R61: for every integer the wraps are the non-negative residues by `W` and `H`, so they are on the grid. -/
def Obligations.WrapIsTheNonNegativeResidue : Prop :=
  ∀ (c : Config) (i j : Int),
    (wrapX c i : Int) = i % (c.width : Int) ∧ wrapX c i < c.width ∧
    (wrapY c j : Int) = j % (c.height : Int) ∧ wrapY c j < c.height

/-- R62: the encoder's address is row-major and below `NCELLS`; each address is that of exactly one position on the
grid. The linear form is the spec's decision D7. -/
def Obligations.CellAddressesNumberTheGrid : Prop :=
  ∀ c : Config,
    (∀ i j : Int, cellAddr c i j = wrapY c j * c.width + wrapX c i ∧ cellAddr c i j < c.ncells) ∧
    (∀ k, k < c.ncells → ∃ x y : Nat, x < c.width ∧ y < c.height ∧ cellAddr c x y = k ∧
      ∀ x' y' : Nat, x' < c.width → y' < c.height → cellAddr c x' y' = k → x' = x ∧ y' = y)

/-- R65 and R66 through the grid: after a `GridWrite` of any integer at any coordinates, a `GridRead` of coordinates
that wrap to the same cell gives the value's non-negative residue by 256, and every other one gives what it gave. The
grid is in the model's canonical form (log 2). -/
def Obligations.GridWriteThenRead : Prop :=
  ∀ (s : State) (i j v i' j' : Int), s.grid.wf s.cfg.ncells = true →
    gridRead (gridWrite i j v s) i' j' =
      if wrapX s.cfg i' = wrapX s.cfg i ∧ wrapY s.cfg j' = wrapY s.cfg j then BitVec.ofNat 8 (v % 256).toNat
      else gridRead s i' j'

/-- Two grids in canonical form that read the same at every address of the grid are equal as data (the model's own
form of memory, log 2). -/
def Obligations.EqualReadsAreEqualGrids : Prop :=
  ∀ (n : Nat) (g h : Memory), g.wf n = true → h.wf n = true → (∀ a, a < n → g.read a = h.read a) → g = h

/-- R67: on the grid, an advance may be computed with comparisons instead of a division. -/
def Obligations.AdvanceNeedsNoDivider : Prop :=
  ∀ s : State, s.x < s.cfg.width → s.y < s.cfg.height →
    ((advance s).x : Int) = (if (s.x : Int) = s.cfg.width - 1 ∧ dx s.dir = 1 then 0
      else if (s.x : Int) = 0 ∧ dx s.dir = -1 then (s.cfg.width : Int) - 1 else s.x + dx s.dir) ∧
    ((advance s).y : Int) = (if (s.y : Int) = s.cfg.height - 1 ∧ dy s.dir = 1 then 0
      else if (s.y : Int) = 0 ∧ dy s.dir = -1 then (s.cfg.height : Int) - 1 else s.y + dy s.dir)

/-! ### Decoding and encoding -/

/-- Decoding the encoding of any well-formed instruction, in the mode it is read in, gives the instruction back, and
takes one cell. -/
def Obligations.DecodeOfEncodeIsTheInstruction : Prop :=
  ∀ (i : Instr) (rest : List Code), i.wf = true → decode i.stringMode (encode i :: rest) = .ok (i, rest)

/-- Every cell, in either mode, decodes to a well-formed instruction of that mode whose encoding is the cell. -/
def Obligations.EveryCellIsOneInstruction : Prop :=
  ∀ (smode : Bool) (op : Code), (decodeCell smode op).wf = true ∧ (decodeCell smode op).stringMode = smode ∧
    encode (decodeCell smode op) = op

/-- R85: with `smode = 0` exactly the codes of the rule's ranges, 219 of them, decode to `NOP_OTHER`, which acts as
the space does. -/
def Obligations.UnrecognisedCodesAreNoOps : Prop :=
  (∀ op : Code, decodeCell false op = .nopOther op ↔
    (op.toNat ≤ 0x1F ∨ (0x27 ≤ op.toNat ∧ op.toNat ≤ 0x29) ∨ op.toNat = 0x3B ∨ op.toNat = 0x3D ∨
     (0x41 ≤ op.toNat ∧ op.toNat ≤ 0x5B) ∨ op.toNat = 0x5D ∨ (0x61 ≤ op.toNat ∧ op.toNat ≤ 0x66) ∨
     (0x68 ≤ op.toNat ∧ op.toNat ≤ 0x6F) ∨ (0x71 ≤ op.toNat ∧ op.toNat ≤ 0x75) ∨
     (0x77 ≤ op.toNat ∧ op.toNat ≤ 0x7B) ∨ op.toNat = 0x7D ∨ 0x7F ≤ op.toNat)) ∧
  ((List.range 256).filter (fun n => decodeCell false (BitVec.ofNat 8 n) = .nopOther (BitVec.ofNat 8 n))).length = 219 ∧
  (∀ (op : Code) (s : State), exec (.nopOther op) s = exec .nop s)

/-- Cells written out from R82's table, one of each family, decode as their rows say; a sanity statement. -/
def Obligations.SampleCellsDecode : Prop :=
  decodeCell false 0b00111110 = .goEast ∧ decodeCell false 0b00110111 = .push7 ∧
  decodeCell false 0b00101101 = .sub ∧ decodeCell false 0b01011100 = .swap ∧
  decodeCell false 0b01110000 = .put ∧ decodeCell false 0b01111110 = .inChr ∧
  decodeCell false 0b01000000 = .halt ∧ decodeCell false 0b00100000 = .nop ∧
  decodeCell false 0b00100010 = .strOn ∧ decodeCell true 0b00100010 = .strOff ∧
  decodeCell true 0b01000000 = .strPush 0b01000000 ∧ decodeCell false 0b01010110 = .nopOther 0b01010110

/-- R32, R40, R42, R48: the register and result codes. The encodings are the spec's decisions D6, D23 and D24. -/
def Obligations.TapCodesFollowTheTables : Prop :=
  (∀ d : Dir, dirOfCode (dirCode d) = d) ∧ (∀ b : BitVec 2, dirCode (dirOfCode b) = b) ∧
  ([Dir.east, .west, .south, .north].map dirCode = [0, 1, 2, 3]) ∧
  ([Dir.east, .west, .south, .north].map dx = [1, -1, 0, 0]) ∧
  ([Dir.east, .west, .south, .north].map dy = [0, 0, 1, -1]) ∧
  ([Status.running, .awaitInt, .awaitChr, .halted, .interrupted, .faulted].map statusCode = [0, 1, 2, 3, 4, 5]) ∧
  ([none, some FaultReason.valueOverflow, some .stackOverflow].map faultCode = [0, 1, 2]) ∧
  ([Status.running, .halted, .interrupted, .awaitInt, .awaitChr, .faulted].map (fun st => resultCode (resultOf st))
    = [0, 1, 2, 3, 4, 5])

/-! ### The STEP command -/

/-- R100, R103: in status RUNNING with no cancellation pending, a step whose action is `STEP` (an empty script, or a
`STEP` at its head) is `exec` of the instruction that the decoder reads, with `smode`, from the cell under the
instruction pointer. The script is the model's form of the host (log 3). -/
def Obligations.AStepRunsTheDecodedInstruction : Prop :=
  ∀ s : State, s.status = .running → s.cancelPending = false →
    (s.script = [] → step s = exec (decodeCell s.smode (gridRead s s.x s.y)) s) ∧
    (∀ rest, s.script = .step :: rest →
      step s = exec (decodeCell s.smode (gridRead s s.x s.y)) { s with script := rest }) ∧
    (∀ i : Instr, i.wf = true → i.stringMode = s.smode → gridRead s s.x s.y = encode i →
      command .step s = exec i s)

/-- Placing a table word (log 9) makes the very next step run the instruction that the decoder reads from it. -/
def Obligations.APlacedWordIsRunNext : Prop :=
  ∀ (s : State) (nbits w : Nat), s.grid.wf s.cfg.ncells = true → s.x < s.cfg.width → s.y < s.cfg.height →
    ∃ i, decodeTableWord nbits w = some i ∧
      step (s.withFetchWord nbits w) = exec i { s with
        grid := s.grid.write (addressOf s.cfg s.x s.y) (BitVec.ofNat 8 (w % 2 ^ nbits))
        smode := false, status := .running, cancelPending := false }

/-- R101: a cancellation pending at a `STEP` in RUNNING sets `status` to INTERRUPTED, emits `Interrupted`, and does
nothing else; the result is INTERRUPTED. -/
def Obligations.PendingCancellationWins : Prop :=
  ∀ s : State, s.status = .running → s.cancelPending = true →
    ∃ t, command .step s = .next t ∧ t = State.reporting { s with status := .interrupted } .interrupted ∧
      t.result = .interrupted

/-- R106: a command in a status that does not take it changes nothing but the event output, which is NONE. The spec's
decision D18; the trace is the model's own (log 5). -/
def Obligations.CommandsOutOfTurnAreIgnored : Prop :=
  ∀ (s : State) (line : List Nat),
    (s.status ≠ .running → command .step s = .next (s.reporting .none)) ∧
    (s.status ≠ .awaitInt → s.status ≠ .awaitChr → command (.resume line) s = .next (s.reporting .none))

/-- R107: the two no-ops complete with one advance and no other effect. The event NONE is the spec's decision D11. -/
def Obligations.NoOpsOnlyAdvance : Prop :=
  ∀ (s : State) (op : Code),
    exec .nop s = .next (s.completed .none) ∧ exec (.nopOther op) s = .next (s.completed .none)

/-- R105, R193, R228: every `STEP` and every `RESUME` drives exactly one event, and a `STEP` that answers AWAIT_INT,
AWAIT_CHR, HALTED or INTERRUPTED from RUNNING drove the event that R105 names. That each step drives one event, be it
NONE, is the spec's decision D11. No rule keeps a list of the events: the trace, of which the first clauses say that it
grows by exactly the event driven, is the model's choice (log 5), made after R228's trace record. -/
def Obligations.EveryCommandDrivesOneEvent : Prop :=
  ∀ (s t : State),
    (∀ line, command (.resume line) s = .next t → t.trace = s.trace ++ [t.event]) ∧
    (command .step s = .next t → t.trace = s.trace ++ [t.event] ∧
      (s.status = .running →
        (t.status = .awaitInt → t.event = .inputRequested .integer) ∧
        (t.status = .awaitChr → t.event = .inputRequested .character) ∧
        (t.status = .halted → t.event = .halted) ∧
        (t.status = .interrupted → t.event = .interrupted)))

/-- R41, whole: where each command may take `status`, and when. -/
def Obligations.StatusFollowsTheTransitionTable : Prop :=
  ∀ (c : HostAction) (s t : State), command c s = .next t →
    match c with
    | .reset _ => t.status = .running
    | .cancelReq => t.status = s.status
    | .resume _ =>
      if s.status = .awaitInt ∨ s.status = .awaitChr then
        t.status = .running ∨ (t.status = .faulted ∧ ¬ Unbounded s.cfg)
      else t.status = s.status
    | .step =>
      if s.status = .running then
        if s.cancelPending then t.status = .interrupted
        else if decodeCell s.smode (gridRead s s.x s.y) = .inInt then t.status = .awaitInt
        else if decodeCell s.smode (gridRead s s.x s.y) = .inChr then t.status = .awaitChr
        else if decodeCell s.smode (gridRead s s.x s.y) = .halt then t.status = .halted
        else t.status = .running ∨ (t.status = .faulted ∧ ¬ Unbounded s.cfg)
      else t.status = s.status

/-- R43: what each command does to the step counter. Start, increment and width are the spec's decision D12. -/
def Obligations.StepsCountCompletedInstructions : Prop :=
  ∀ (c : HostAction) (s t : State), command c s = .next t →
    match c with
    | .reset _ => t.steps = 0
    | .cancelReq => t.steps = s.steps
    | .resume _ => t.steps = if s.status.waiting = true ∧ t.status = .running then s.steps + 1 else s.steps
    | .step => t.steps =
        if s.status = .running ∧ (t.status = .running ∨ t.status = .halted) then s.steps + 1 else s.steps

/-- R44: only `cancel_req` sets the latch and only `RESET` clears it. The latch is the spec's decision D17. -/
def Obligations.OnlyResetClearsTheCancelLatch : Prop :=
  ∀ (c : HostAction) (s t : State), command c s = .next t →
    match c with
    | .reset _ => t.cancelPending = false
    | .cancelReq => t = { s with cancelPending := true }
    | .resume _ | .step => t.cancelPending = s.cancelPending

/-- R33: after a reset the grid changes only at a `STEP` that executes `p`. -/
def Obligations.OnlyPutWritesTheGrid : Prop :=
  ∀ (c : HostAction) (s t : State), command c s = .next t → t.grid ≠ s.grid →
    (∃ image, c = .reset image) ∨
    (c = .step ∧ s.status = .running ∧ s.cancelPending = false ∧ s.smode = false ∧ gridRead s s.x s.y = 0x70)

/-- R52, the table of what each instruction writes, as a frame: no instruction touches the build, the latch or the
host's script, and each other field changes only under the instructions named beside it. Any push may fault a bounded
build, which writes `status` and `fault_reason`. -/
def Obligations.InstructionsWriteOnlyWhatTheTableSays : Prop :=
  ∀ (i : Instr) (s t : State), exec i s = .next t →
    t.cfg = s.cfg ∧ t.cancelPending = s.cancelPending ∧ t.script = s.script ∧
    (i ∉ [.goEast, .goWest, .goNorth, .goSouth, .goRandom, .ifHoriz, .ifVert] → t.dir = s.dir) ∧
    (i ∈ [.goEast, .goWest, .goNorth, .goSouth, .goRandom, .strOn, .strOff, .bridge, .inInt, .inChr, .halt, .nop] ∨
      (∃ op, i = .nopOther op) → t.stack = s.stack) ∧
    (i ≠ .put → ∀ a, t.grid.read a = s.grid.read a) ∧
    (i ≠ .put → t.grid = s.grid) ∧
    (i ∉ [.strOn, .strOff] → t.smode = s.smode) ∧
    (i ≠ .outChr → t.acc = s.acc) ∧
    (i ≠ .goRandom → t.draws = s.draws ∧ t.drawCount = s.drawCount) ∧
    (i ∉ [.inInt, .inChr, .halt] → (t.status = s.status ∧ t.faultReason = s.faultReason) ∨
      ∃ r, t = s.faultedBy r) ∧
    (i ∈ [.inInt, .inChr, .halt] → t.x = s.x ∧ t.y = s.y ∧ t.faultReason = s.faultReason)

/-- R108: once a run has ended it stays as it ended: whatever the host does but `RESET`, in any number of steps, the
machine goes on answering and no architectural state but the unread cancellation latch changes. -/
def Obligations.AnEndedRunIsFrozen : Prop :=
  ∀ (k : Nat) (s : State), s.status.terminal = true → (∀ c ∈ s.script, ∀ image, c ≠ .reset image) →
    ∃ t, Host.Core.run Sys2Proof.core k s = .next t ∧ SameButLatch s t

/-! ### Direction and control transfer -/

/-- R120, R121: the codes of `>` and `<` decode to them, and they set the direction and move one cell along it. -/
def Obligations.GoEastAndGoWestTurn : Prop :=
  decodeCell false 0x3E = .goEast ∧ decodeCell false 0x3C = .goWest ∧
  ∀ s : State,
    exec .goEast s = .next (State.completed { s with dir := .east } .directionChanged) ∧
    exec .goWest s = .next (State.completed { s with dir := .west } .directionChanged)

/-- R122, R123: `^` and `v`. North is `(0, -1)` and South `(0, +1)` by the spec's decision D5. -/
def Obligations.GoNorthAndGoSouthTurn : Prop :=
  decodeCell false 0x5E = .goNorth ∧ decodeCell false 0x76 = .goSouth ∧ decodeCell false 0x56 = .nopOther 0x56 ∧
  ∀ s : State,
    exec .goNorth s = .next (State.completed { s with dir := .north } .directionChanged) ∧
    exec .goSouth s = .next (State.completed { s with dir := .south } .directionChanged) ∧
    (State.completed { s with dir := .north } .directionChanged).y = (((s.y : Int) - 1) % (s.cfg.height : Int)).toNat ∧
    (State.completed { s with dir := .south } .directionChanged).y = (((s.y : Int) + 1) % (s.cfg.height : Int)).toNat

/-- R124: `?` heads wherever the draw says, for every draw; where the host has listed no draw, some direction is taken,
and nothing more is said of it (log 4). -/
def Obligations.GoRandomFollowsTheDraw : Prop :=
  decodeCell false 0x3F = .goRandom ∧
  ∀ s : State,
    (∀ d rest, s.draws = d :: rest →
      exec .goRandom s = .next (State.completed { s with dir := d, draws := rest } .directionChanged)) ∧
    (s.draws = [] → ∃ d, exec .goRandom s =
      .next (State.completed { s with dir := d, drawCount := s.drawCount + 1 } .directionChanged))

/-- R125, R126: `_` pops a value and heads East for 0 and West otherwise; `|` heads South for 0 and North otherwise. -/
def Obligations.BranchesTestForZero : Prop :=
  decodeCell false 0x5F = .ifHoriz ∧ decodeCell false 0x7C = .ifVert ∧
  ∀ s : State,
    exec .ifHoriz s = .next (State.completed
      { s with stack := s.stack.drop 1, dir := if s.nth 0 = 0 then .east else .west } .directionChanged) ∧
    exec .ifVert s = .next (State.completed
      { s with stack := s.stack.drop 1, dir := if s.nth 0 = 0 then .south else .north } .directionChanged)

/-- R128: `#` lands two cells ahead, each advance wrapping by itself, and counts one step. The event NONE is the
spec's decision D11. -/
def Obligations.BridgeSkipsOneCell : Prop :=
  decodeCell false 0x23 = .bridge ∧
  ∀ s : State, exec .bridge s = .next { s with
    x := movedOn s.cfg.width (movedOn s.cfg.width s.x (dx s.dir)) (dx s.dir)
    y := movedOn s.cfg.height (movedOn s.cfg.height s.y (dy s.dir)) (dy s.dir)
    steps := s.steps + 1
    event := .none
    trace := s.trace ++ [.none] }

/-! ### String mode -/

/-- R140, R142: the quote sets and clears `smode`, and pushes nothing. The event NONE is the spec's decision D11. -/
def Obligations.QuotesToggleStringMode : Prop :=
  decodeCell false 0x22 = .strOn ∧ decodeCell true 0x22 = .strOff ∧
  ∀ s : State,
    exec .strOn s = .next (State.completed { s with smode := true } .none) ∧
    exec .strOff s = .next (State.completed { s with smode := false } .none)

/-- R141: in string mode every code but the quote is data, and is pushed as its number, `0..255`. -/
def Obligations.StringModePushesCodes : Prop :=
  ∀ (op : Code) (s : State), op ≠ 0x22 → decodeCell true op = .strPush op ∧
    (Accepts s.cfg s.stack.length op.toNat →
      exec (.strPush op) s =
        .next (State.completed { s with stack := (op.toNat : Int) :: s.stack } (.stackPushed op.toNat)))

/-- R91: crossing any cells without a quote in string mode, in any direction and over any edge, pushes their codes in
the order of travel. -/
def Obligations.StringLiteralsPushInOrder : Prop :=
  ∀ (codes : List Code) (s : State), Unbounded s.cfg → s.status = .running → s.cancelPending = false →
    s.smode = true → s.script = [] → (0x22 : Code) ∉ codes →
    (∀ k, k < codes.length → gridRead s (s.x + k * dx s.dir) (s.y + k * dy s.dir) = codes.getD k 0) →
    ∃ t, Host.Core.run Sys2Proof.core codes.length s = .next t ∧
      t.stack = (codes.map (fun c => (c.toNat : Int))).reverse ++ s.stack ∧
      t.smode = true ∧ t.status = .running ∧ t.dir = s.dir ∧ t.grid = s.grid ∧ t.acc = s.acc ∧
      t.steps = s.steps + codes.length

/-! ### The ALU and the stack -/

/-- R150: each digit's cell decodes to its instruction, which pushes the digit's value. -/
def Obligations.DigitsPushTheirValue : Prop :=
  ∀ p ∈ [(Instr.push0, (0 : Nat)), (.push1, 1), (.push2, 2), (.push3, 3), (.push4, 4), (.push5, 5), (.push6, 6),
      (.push7, 7), (.push8, 8), (.push9, 9)],
    decodeCell false (BitVec.ofNat 8 (0x30 + p.2)) = p.1 ∧
    ∀ s : State, Accepts s.cfg s.stack.length p.2 →
      exec p.1 s = .next (State.completed { s with stack := (p.2 : Int) :: s.stack } (.stackPushed p.2))

/-- R151, R152, R153: sum, difference (the first value popped is the subtrahend) and product, exact. -/
def Obligations.AddSubMulAreExact : Prop :=
  decodeCell false 0x2B = .add ∧ decodeCell false 0x2D = .sub ∧ decodeCell false 0x2A = .mul ∧
  ∀ s : State, ∀ p ∈ [(Instr.add, s.nth 0 + s.nth 1), (.sub, s.nth 1 - s.nth 0), (.mul, s.nth 0 * s.nth 1)],
    Accepts s.cfg (s.stack.length - 2) p.2 →
    exec p.1 s = .next (State.completed { s with stack := p.2 :: s.stack.drop 2 } (.stackPushed p.2))

/-- R154, R155: a zero divisor gives 0 for both; else, in a build with `DIV_MODE = FLOOR` (this hardware, the spec's
decision D4), the quotient rounds toward negative infinity, and in one with TRUNC (I1, log 12) toward zero; the
remainder is what the quotient leaves. -/
def Obligations.DivAndModRoundAsTheBuildSays : Prop :=
  decodeCell false 0x2F = .div ∧ decodeCell false 0x25 = .mod ∧
  ∀ (s : State) (q r : Int),
    q = (if s.nth 0 = 0 then 0 else if s.cfg.divMode = .floor then Int.fdiv (s.nth 1) (s.nth 0)
      else Int.tdiv (s.nth 1) (s.nth 0)) →
    r = (if s.nth 0 = 0 then 0 else s.nth 1 - s.nth 0 * q) →
    (Accepts s.cfg (s.stack.length - 2) q →
      exec .div s = .next (State.completed { s with stack := q :: s.stack.drop 2 } (.stackPushed q))) ∧
    (Accepts s.cfg (s.stack.length - 2) r →
      exec .mod s = .next (State.completed { s with stack := r :: s.stack.drop 2 } (.stackPushed r)))

/-- R156, R157: `!` tests for zero, and the backquote is a signed comparison of the value below the top with the top. -/
def Obligations.NotAndGreaterThan : Prop :=
  decodeCell false 0x21 = .not ∧ decodeCell false 0x60 = .gt ∧
  ∀ s : State,
    (∀ v : Int, v = (if s.nth 0 = 0 then 1 else 0) → Accepts s.cfg (s.stack.length - 1) v →
      exec .not s = .next (State.completed { s with stack := v :: s.stack.drop 1 } (.stackPushed v))) ∧
    (∀ v : Int, v = (if s.nth 1 > s.nth 0 then 1 else 0) → Accepts s.cfg (s.stack.length - 2) v →
      exec .gt s = .next (State.completed { s with stack := v :: s.stack.drop 2 } (.stackPushed v)))

/-- R170 in both builds: with `DUP_EMPTY = TWO` (this hardware, the spec's decision D10) pop and push twice, so an
empty stack becomes two zeros; with ONE (I4, log 12) push the top, or 0, once more. -/
def Obligations.DupRepeatsTheTop : Prop :=
  decodeCell false 0x3A = .dup ∧
  ∀ s : State,
    (s.cfg.dupEmpty = .two → Accepts s.cfg (s.stack.length - 1) (s.nth 0) →
      Accepts s.cfg (s.stack.length - 1 + 1) (s.nth 0) →
      exec .dup s = .next (State.completed
        { s with stack := s.nth 0 :: s.nth 0 :: s.stack.drop 1 } (.stackPushed (s.nth 0)))) ∧
    (s.cfg.dupEmpty = .one → Accepts s.cfg s.stack.length (s.nth 0) →
      exec .dup s = .next (State.completed { s with stack := s.nth 0 :: s.stack } (.stackPushed (s.nth 0))))

/-- R171, R172: `\` pushes the two popped values back in the order of popping, so one value gets a 0 on top and an
empty stack becomes two zeros; `$` drops the top and reports it. -/
def Obligations.SwapAndDrop : Prop :=
  decodeCell false 0x5C = .swap ∧ decodeCell false 0x24 = .drop ∧
  ∀ s : State,
    (Accepts s.cfg (s.stack.length - 2) (s.nth 0) → Accepts s.cfg (s.stack.length - 2 + 1) (s.nth 1) →
      exec .swap s = .next (State.completed
        { s with stack := s.nth 1 :: s.nth 0 :: s.stack.drop 2 } (.stackPushed (s.nth 1)))) ∧
    exec .drop s = .next (State.completed { s with stack := s.stack.drop 1 } (.stackPopped (s.nth 0)))

/-- R170: no instruction can observe the depth of the stack, nor the build's reading of `:` on an empty stack. From two
states of unbounded builds that differ in nothing else, every instruction leads to two such states again, with the same
event. -/
def Obligations.StackDepthIsUnobservable : Prop :=
  ∀ (i : Instr) (s t : State), Unbounded s.cfg → Indistinct s t →
    ∃ s' t', exec i s = .next s' ∧ exec i t = .next t' ∧ Indistinct s' t'

/-! ### Grid access -/

/-- R180: `g` pops x and then y, and pushes the code of that cell, `0..255`; no cell changes. -/
def Obligations.GetPushesACell : Prop :=
  decodeCell false 0x67 = .get ∧ decodeCell false 0x47 = .nopOther 0x47 ∧
  ∀ (s : State) (c : Int), c = ((gridRead s (s.nth 0) (s.nth 1)).toNat : Int) →
    gridRead s (s.nth 0) (s.nth 1) = s.grid.read (addressOf s.cfg (s.nth 0) (s.nth 1)) ∧
    (Accepts s.cfg (s.stack.length - 2) c →
      exec .get s = .next (State.completed { s with stack := c :: s.stack.drop 2 } (.stackPushed c)))

/-- R182: `p` pops x, then y, then the value, stores the value's residue by 256 in that one cell, and reports the
wrapped coordinates and the code stored; every other cell reads as before. The canonical form of the grid, assumed
before `p` and kept by it, is the model's choice (log 2), not the rule's. -/
def Obligations.PutWritesOneCell : Prop :=
  decodeCell false 0x70 = .put ∧ decodeCell false 0x50 = .nopOther 0x50 ∧
  ∀ s : State, s.grid.wf s.cfg.ncells = true →
    ∃ t, exec .put s = .next t ∧
      t = State.completed { s with stack := s.stack.drop 3, grid := t.grid }
        (.cellWritten (s.nth 0 % (s.cfg.width : Int)).toNat (s.nth 1 % (s.cfg.height : Int)).toNat
          (BitVec.ofNat 8 (s.nth 2 % 256).toNat)) ∧
      t.grid.wf t.cfg.ncells = true ∧
      ∀ k, t.grid.read k = if k = addressOf s.cfg (s.nth 0) (s.nth 1) then BitVec.ofNat 8 (s.nth 2 % 256).toNat
        else s.grid.read k

/-- R183: after `p` has stored a value, a `g` of coordinates that wrap to the same cell, with no write in between,
pushes the value's residue by 256. The grid is in the model's canonical form (log 2). -/
def Obligations.PutThenGet : Prop :=
  ∀ (s t u : State) (a' b' : Int) (rest : List Int), s.grid.wf s.cfg.ncells = true → exec .put s = .next t →
    u.cfg = t.cfg → u.grid = t.grid → u.stack = a' :: b' :: rest →
    a' % (s.cfg.width : Int) = s.nth 0 % (s.cfg.width : Int) →
    b' % (s.cfg.height : Int) = s.nth 1 % (s.cfg.height : Int) →
    Accepts u.cfg rest.length (s.nth 2 % 256) →
    ∃ w, exec .get u = .next w ∧ w.stack = (s.nth 2 % 256) :: rest

/-- R76: a `p` that writes the cell it advances onto changes the very next instruction, and one that writes another
cell does not. The grid is in the model's canonical form (log 2). -/
def Obligations.TheNextFetchSeesTheWrite : Prop :=
  ∀ s t : State, s.grid.wf s.cfg.ncells = true → s.status = .running → s.cancelPending = false →
    exec .put s = .next t →
    command .step t = exec (decodeCell s.smode
      (if addressOf s.cfg t.x t.y = addressOf s.cfg (s.nth 0) (s.nth 1) then BitVec.ofNat 8 (s.nth 2 % 256).toNat
       else gridRead s t.x t.y)) t

/-! ### Output, input and halt -/

/-- R190, R192: `.` and `,` pop a value and report it as it is; only `,` appends it to the accumulator. That `.` does
not, and that `,` does not convert, are the spec's decisions D13 and D14. -/
def Obligations.OutputsReportThePoppedValue : Prop :=
  decodeCell false 0x2E = .outInt ∧ decodeCell false 0x2C = .outChr ∧
  ∀ s : State,
    exec .outInt s = .next (State.completed { s with stack := s.stack.drop 1 } (.integerOutput (s.nth 0))) ∧
    exec .outChr s = .next (State.completed
      { s with stack := s.stack.drop 1, acc := s.acc ++ [s.nth 0] } (.characterOutput (s.nth 0)))

/-- R195, R198: `&` and `~` at their `STEP` enter the input wait, and write nothing but `status`. -/
def Obligations.InputsSuspend : Prop :=
  decodeCell false 0x26 = .inInt ∧ decodeCell false 0x7E = .inChr ∧
  ∀ s : State,
    (∃ t, exec .inInt s = .next t ∧ t = State.reporting { s with status := .awaitInt } (.inputRequested .integer) ∧
      t.result = .awaitingInputInteger) ∧
    (∃ t, exec .inChr s = .next t ∧ t = State.reporting { s with status := .awaitChr } (.inputRequested .character) ∧
      t.result = .awaitingInputCharacter)

/-- R193: `RESUME` completes the suspended input: it pushes what the line gives (the integer that
the build's parser reads, or the first code or 0), advances, counts the step and runs again, whether or not a cancellation is pending. In any other status it is
ignored. -/
def Obligations.ResumeCompletesTheInput : Prop :=
  ∀ (s : State) (line : List Nat),
    (∀ v : Int, (s.status = .awaitInt ∧ v = parseLine s.cfg line) ∨ (s.status = .awaitChr ∧ v = (line.headD 0 : Nat)) →
      Accepts s.cfg s.stack.length v →
      ∃ t, command (.resume line) s = .next t ∧ t.result = .continue ∧
        t = State.completed { s with stack := v :: s.stack, status := .running } (.stackPushed v)) ∧
    (s.status ∉ [.awaitInt, .awaitChr] → command (.resume line) s = .next (s.reporting .none))

/-- R197: in a build whose parser is the rule's, as this hardware's is, white space around an optional sign and one or
more digits gives the signed decimal value, and any other line gives 0. The grammar is the spec's decision D15; what a
build with another parser reads is left open (I5, log 13). -/
def Obligations.ParseIntFollowsTheGrammar : Prop :=
  Config.rr25.parseInt = .r197 ∧ ∀ c : Config, c.parseInt = .r197 →
  (∀ (before after ds : List Nat) (sign : Option Nat),
    (∀ c ∈ before ++ after, c ∈ [0x09, 0x0A, 0x0B, 0x0C, 0x0D, 0x20]) → (∀ d ∈ ds, 0x30 ≤ d ∧ d ≤ 0x39) → ds ≠ [] →
    sign ∈ [none, some 0x2B, some 0x2D] →
    parseLine c (before ++ sign.toList ++ ds ++ after) =
      (if sign = some 0x2D then -1 else 1) *
        ((List.range ds.length).map (fun i => ((ds.getD i 0 - 0x30 : Nat) : Int) * 10 ^ (ds.length - 1 - i))).sum) ∧
  (∀ line : List Nat,
    (¬ ∃ (before after ds : List Nat) (sign : Option Nat),
      (∀ c ∈ before ++ after, c ∈ [0x09, 0x0A, 0x0B, 0x0C, 0x0D, 0x20]) ∧ (∀ d ∈ ds, 0x30 ≤ d ∧ d ≤ 0x39) ∧ ds ≠ [] ∧
      sign ∈ [none, some 0x2B, some 0x2D] ∧ line = before ++ sign.toList ++ ds ++ after) →
    parseLine c line = 0)

/-- R200: `@` halts: no advance, one step counted. -/
def Obligations.HaltEndsTheRun : Prop :=
  decodeCell false 0x40 = .halt ∧
  ∀ s : State, ∃ t, exec .halt s = .next t ∧
    t = State.reporting { s with status := .halted, steps := s.steps + 1 } .halted ∧ t.result = .halted

/-! ### Faults and cancellation -/

/-- R210: nothing that an instruction meets can stop the machine: every instruction and every action of the host
answers a next state, but a RESET whose image is no image, which is refused (log 11). -/
def Obligations.TheMachineNeverFails : Prop :=
  (∀ (i : Instr) (s : State), ∃ t, exec i s = .next t) ∧
  (∀ (c : HostAction) (s : State), (∃ t, command c s = .next t) ∨
    ∃ image, c = .reset image ∧ image.length ≠ s.cfg.ncells ∧ command c s = .refused (.malformedImage image.length))

/-- R211, R42: in a build with neither bound, as this hardware is, FAULTED is never entered and `fault_reason` stays
NONE. -/
def Obligations.UnboundedBuildsNeverFault : Prop :=
  ∀ s t : State, Unbounded s.cfg → s.status ≠ .faulted → s.faultReason = none → step s = .next t →
    Unbounded t.cfg ∧ t.status ≠ .faulted ∧ t.faultReason = none

/-- R218, R49: a command that faults writes `status` and `fault_reason` and nothing else, whatever it had done before
the push that failed. Faults exist in finite builds only (the spec's decision D25). -/
def Obligations.FaultsArePrecise : Prop :=
  ∀ (c : HostAction) (s t : State), command c s = .next t → s.status ≠ .faulted → t.status = .faulted →
    ∃ r, t = s.faultedBy r ∧ (r = .stackOverflow → s.cfg.stackCap ≠ none) ∧
      (r = .valueOverflow → s.cfg.valueBits ≠ none)

/-- R216, R217: for every instruction that pushes once, and for `RESUME`, a push onto a stack at the cap faults with
STACK_OVERFLOW, checked first, and a value outside the build's width faults with VALUE_OVERFLOW. Each row gives the
instruction, the depth at its push and the value (the spec's decisions D2 and D3). -/
def Obligations.APushThatDoesNotFitFaults : Prop :=
  (∀ (s : State) (line : List Nat) (v : Int),
    (s.status = .awaitInt ∧ v = parseLine s.cfg line) ∨ (s.status = .awaitChr ∧ v = (line.headD 0 : Nat)) →
    (s.cfg.stackCap = some s.stack.length → command (.resume line) s = .next (s.faultedBy .stackOverflow)) ∧
    (TooWide s.cfg s.stack.length v → command (.resume line) s = .next (s.faultedBy .valueOverflow))) ∧
  ∀ (s : State) (op : Code),
    ∀ p ∈ [(Instr.push0, s.stack.length, (0 : Int)), (.push1, s.stack.length, 1), (.push2, s.stack.length, 2),
      (.push3, s.stack.length, 3), (.push4, s.stack.length, 4), (.push5, s.stack.length, 5),
      (.push6, s.stack.length, 6), (.push7, s.stack.length, 7), (.push8, s.stack.length, 8),
      (.push9, s.stack.length, 9), (.strPush op, s.stack.length, (op.toNat : Int)),
      (.add, s.stack.length - 2, s.nth 0 + s.nth 1), (.sub, s.stack.length - 2, s.nth 1 - s.nth 0),
      (.mul, s.stack.length - 2, s.nth 0 * s.nth 1), (.div, s.stack.length - 2, quotient s.cfg (s.nth 1) (s.nth 0)),
      (.mod, s.stack.length - 2, remainder s.cfg (s.nth 1) (s.nth 0)),
      (.not, s.stack.length - 1, if s.nth 0 = 0 then 1 else 0),
      (.gt, s.stack.length - 2, if s.nth 1 > s.nth 0 then 1 else 0),
      (.get, s.stack.length - 2, ((gridRead s (s.nth 0) (s.nth 1)).toNat : Int))],
      (s.cfg.stackCap = some p.2.1 → exec p.1 s = .next (s.faultedBy .stackOverflow)) ∧
      (TooWide s.cfg p.2.1 p.2.2 → exec p.1 s = .next (s.faultedBy .valueOverflow))

/-- R219: `:` and `\` push twice; the pushes are checked in order, the first that fails gives the reason, and a failing
second push leaves the stack as it was before the instruction. The last clause is `:` with `DUP_EMPTY = ONE` (log 12),
which pushes once. -/
def Obligations.TheFirstFailingPushDecides : Prop :=
  (∀ s : State, ∀ p ∈ [(Instr.swap, s.stack.length - 2, s.nth 0, s.nth 1), (.dup, s.stack.length - 1, s.nth 0, s.nth 0)],
    (p.1 = .dup → s.cfg.dupEmpty = .two) →
    (s.cfg.stackCap = some p.2.1 → exec p.1 s = .next (s.faultedBy .stackOverflow)) ∧
    (TooWide s.cfg p.2.1 p.2.2.1 → exec p.1 s = .next (s.faultedBy .valueOverflow)) ∧
    (Accepts s.cfg p.2.1 p.2.2.1 →
      (s.cfg.stackCap = some (p.2.1 + 1) → exec p.1 s = .next (s.faultedBy .stackOverflow)) ∧
      (TooWide s.cfg (p.2.1 + 1) p.2.2.2 → exec p.1 s = .next (s.faultedBy .valueOverflow)))) ∧
  (∀ s : State, s.cfg.dupEmpty = .one →
    (s.cfg.stackCap = some s.stack.length → exec .dup s = .next (s.faultedBy .stackOverflow)) ∧
    (TooWide s.cfg s.stack.length (s.nth 0) → exec .dup s = .next (s.faultedBy .valueOverflow)))

/-- R221: a cancellation requested during an input wait does not end the wait; the `RESUME` completes the input in
full, and the next `STEP` is then interrupted, with nothing executed (the spec's decision D17). -/
def Obligations.CancellationDuringAWaitIsTakenAfterIt : Prop :=
  ∀ (s : State) (line : List Nat) (v : Int),
    (s.status = .awaitInt ∧ v = parseLine s.cfg line) ∨ (s.status = .awaitChr ∧ v = firstCode line) →
    Accepts s.cfg s.stack.length v →
    ∃ t u w, command .cancelReq s = .next t ∧ t.status = s.status ∧
      command (.resume line) t = .next u ∧ u.status = .running ∧ u.stack = v :: s.stack ∧ u.steps = s.steps + 1 ∧
      command .step u = .next w ∧ w = State.reporting { u with status := .interrupted } .interrupted

/-! ### Reset, the loader and the whole machine -/

/-- R240, R241: a RESET with an image of `NCELLS` codes is taken in every status; it gives every cell the image's code
and every register its reset value, and touches neither the build nor the random source. -/
def Obligations.ResetGivesEveryValue : Prop :=
  ∀ (s : State) (image : List Code), image.length = s.cfg.ncells →
    ∃ t, command (.reset image) s = .next t ∧
      (∀ k, k < s.cfg.ncells → gridRead t ((k % s.cfg.width : Nat) : Int) ((k / s.cfg.width : Nat) : Int) = image.getD k 0) ∧
      t.x = 0 ∧ t.y = 0 ∧ t.dir = .east ∧ t.stack = [] ∧ t.smode = false ∧ t.acc = [] ∧ t.steps = 0 ∧
      t.status = .running ∧ t.faultReason = none ∧ t.cancelPending = false ∧
      t.event = .none ∧ t.result = .continue ∧
      t.cfg = s.cfg ∧ t.draws = s.draws ∧ t.drawCount = s.drawCount

/-- R242: before the first `RESET` the core has no state, and `STEP` and `RESUME` are refused; a RESET gives it one.
Two clauses are the model's choice, not the rule's (log 19): that a `cancel_req` is refused there too, and that the first
RESET takes this hardware's build. That State.reset is the state after the RESET of the loader's image of the empty text,
every cell a space, is the model's choice as well (log 2). -/
def Obligations.TheFirstResetStartsTheMachine : Prop :=
  powered .step none = .refused .beforeFirstReset ∧ powered .cancelReq none = .refused .beforeFirstReset ∧
  (∀ line, powered (.resume line) none = .refused .beforeFirstReset) ∧
  (∀ image : List Code, image.length = 2000 → ∃ t, powered (.reset image) none = .next t ∧ t.cfg = Config.rr25) ∧
  powered (.reset (load Config.rr25 [])) none = .next State.reset ∧
  (∀ i j : Int, gridRead State.reset i j = 0x20)

/-- R243: the loader's image always has `NCELLS` codes; cell (x, y) is character x of line y of the text, or a space
where there is none; and a line terminator at the end of the text makes no difference. The terminators are the spec's
decision D20. -/
def Obligations.TheLoaderPadsAndCuts : Prop :=
  ∀ (c : Config) (text : List Code),
    (load c text).length = c.ncells ∧
    (∀ x y, x < c.width → y < c.height →
      (load c text).getD (y * c.width + x) 0 = ((splitLines false text).getD y []).getD x 0x20) ∧
    load c (text ++ [0x0A]) = load c text ∧ load c (text ++ [0x0D]) = load c text ∧
    load c (text ++ [0x0D, 0x0A]) = load c text

/-- R243: how the text is split. A line without terminators is one line; after a line, each of LF, CR and CR LF ends it,
and what follows is split as a text of its own (after a lone CR, if it does not begin with LF). Decision D20. -/
def Obligations.LinesEndAtEachTerminator : Prop :=
  ∀ (line rest : List Code), (0x0A : Code) ∉ line → (0x0D : Code) ∉ line →
    splitLines false line = [line] ∧
    splitLines false (line ++ 0x0A :: rest) = line :: splitLines false rest ∧
    splitLines false (line ++ 0x0D :: 0x0A :: rest) = line :: splitLines false rest ∧
    (rest.head? ≠ some 0x0A → splitLines false (line ++ 0x0D :: rest) = line :: splitLines false rest)

/-- The state right after reset meets the invariant. -/
def Obligations.TheResetStateMeetsTheInvariant : Prop := Inv State.reset

/-- From every state that meets the invariant, whatever its build and whatever the host does next, a step gives a state
of the same build that meets it: the position on the grid (R31), the grid canonical, the stack and the accumulator within the build's bounds,
`fault_reason` set exactly in FAULTED and only for a bound the build has, and a waiting or halted core still on the
`&`, `~` or `@` it executed. -/
def Obligations.EveryStepKeepsTheInvariant : Prop :=
  ∀ s t : State, Inv s → step s = .next t → Inv t ∧ t.cfg = s.cfg

/-! ### The build's parameters -/

/-- R6: this hardware's parameters have the values of the rule's table; in every build the derived widths are the
smallest, from 1 on, that hold `W - 1`, `H - 1` and `NCELLS - 1` (the rule of D26 for `XBITS` and `YBITS`; that `ABITS`
follows it in builds of another size, and that no width is below 1, is the model's choice, log 22); every build has `W >= 1`, `H >= 1` and, where its values are bounded, at least 9
bits of them (R216); and of the draws below the weights' total, the reference mapping gives each direction its weight
(R129). The spec's decisions D2 to D15 and D26 give the values that the source does not. That no build changes
`CELL_BITS`, `DIRBITS` and `STEP_BITS` is deduced from R33, R32 and R43 (log 1), and the mapping for weights other than
R6's is the model's choice (log 20). -/
def Obligations.ParametersFollowTheTable : Prop :=
  (Config.rr25.width = 80 ∧ Config.rr25.height = 25 ∧ Config.rr25.ncells = 2000 ∧ Config.rr25.cellBits = 8 ∧
    Config.rr25.xBits = 7 ∧ Config.rr25.yBits = 5 ∧ Config.rr25.aBits = 11 ∧ Config.rr25.dirBits = 2 ∧
    Config.rr25.valueBits = none ∧ Config.rr25.stackCap = none ∧ Config.rr25.stepBits = none ∧
    Config.rr25.divMode = .floor ∧ Config.rr25.dupEmpty = .two ∧ Config.rr25.parseInt = .r197 ∧
    Config.rr25.weights = { east := 3, west := 2, south := 3, north := 2 }) ∧
  (∀ c : Config, 1 ≤ c.width ∧ 1 ≤ c.height ∧ c.ncells = c.width * c.height ∧ c.cellBits = 8 ∧ c.dirBits = 2 ∧
    c.stepBits = none ∧ (∀ n, c.valueBits = some n → 9 ≤ n) ∧
    ∀ n, 1 ≤ n → (c.width - 1 < 2 ^ n ↔ c.xBits ≤ n) ∧ (c.height - 1 < 2 ^ n ↔ c.yBits ≤ n) ∧
      (c.ncells - 1 < 2 ^ n ↔ c.aBits ≤ n)) ∧
  (∀ (w : Weights) (d : Dir), ((List.range w.total).map w.referenceDraw).count d = w.part d)
end

