-- ==== Sys2Proof/Laws/Arith.lean ====
section
/-! SUPPORT. The floored remainder and the address encoder in terms of the library's integer operations. -/

namespace Sys2Proof.Machine

/-- What every build satisfies, read from the proof it carries. -/
theorem Config_legal (c : Config) : 1 ≤ c.width ∧ 1 ≤ c.height ∧ c.cellBits = 8 ∧ c.dirBits = 2 ∧
    (∀ n, c.valueBits = some n → 9 ≤ n) ∧ c.stepBits = none := by
  have h := c.legal
  simp only [Config.legalParams, Bool.and_eq_true, decide_eq_true_eq, Option.all_eq_true] at h
  exact ⟨h.1.1.1.1.1, h.1.1.1.1.2, h.1.1.1.2, h.1.1.2, h.1.2, h.2⟩

theorem Config_width_pos (c : Config) : 0 < c.width := (Config_legal c).1

theorem Config_height_pos (c : Config) : 0 < c.height := (Config_legal c).2.1

theorem Config_cellBits (c : Config) : c.cellBits = 8 := (Config_legal c).2.2.1

theorem Config_valueBits_ge (c : Config) {n : Nat} (hn : c.valueBits = some n) : 9 ≤ n :=
  (Config_legal c).2.2.2.2.1 n hn

/-- The remainder of rule R8 is the library's floored remainder. -/
theorem fmod_eq (b a : Int) : fmod b a = Int.fmod b a := by
  have h := Int.mul_fdiv_add_fmod b a
  simp only [fmod, fdiv]
  omega

/-- For a positive modulus it is the non-negative residue. -/
theorem fmod_eq_emod (v : Int) {m : Int} (hm : 0 < m) : fmod v m = v % m := by
  rw [fmod_eq, Int.fmod_eq_emod_of_nonneg v hm.le]

/-- In every build `p` stores the non-negative residue by 256 (rule R66). -/
theorem toCode_residue (c : Config) (v : Int) : toCode c v = BitVec.ofNat 8 (v % 256).toNat := by
  rw [toCode, Config_cellBits, fmod_eq_emod v (by decide)]
  rfl

theorem wrapX_eq (c : Config) (i : Int) : wrapX c i = (i % (c.width : Int)).toNat := by
  rw [wrapX, fmod_eq_emod i (by exact_mod_cast Config_width_pos c)]

theorem wrapY_eq (c : Config) (j : Int) : wrapY c j = (j % (c.height : Int)).toNat := by
  rw [wrapY, fmod_eq_emod j (by exact_mod_cast Config_height_pos c)]

theorem toNat_emod_lt (i : Int) {m : Nat} (hm : 0 < m) : (i % (m : Int)).toNat < m := by
  have h1 := Int.emod_nonneg i (b := (m : Int)) (by omega)
  have h2 := Int.emod_lt_of_pos i (b := (m : Int)) (by omega)
  omega

theorem wrapX_lt (c : Config) (i : Int) : wrapX c i < c.width := by
  rw [wrapX_eq]; exact toNat_emod_lt i (Config_width_pos c)

theorem wrapY_lt (c : Config) (j : Int) : wrapY c j < c.height := by
  rw [wrapY_eq]; exact toNat_emod_lt j (Config_height_pos c)

/-- A coordinate that is already on the grid is its own wrap. -/
theorem wrapX_of_lt (c : Config) {x : Nat} (h : x < c.width) : wrapX c x = x := by
  rw [wrapX_eq, Int.emod_eq_of_lt (by omega) (by exact_mod_cast h), Int.toNat_natCast]

theorem wrapY_of_lt (c : Config) {y : Nat} (h : y < c.height) : wrapY c y = y := by
  rw [wrapY_eq, Int.emod_eq_of_lt (by omega) (by exact_mod_cast h), Int.toNat_natCast]

/-- The encoder never leaves the grid (rule R62). -/
theorem cellAddr_lt (c : Config) (i j : Int) : cellAddr c i j < c.ncells := by
  have hx := wrapX_lt c i
  have hy : wrapY c j + 1 ≤ c.height := wrapY_lt c j
  calc cellAddr c i j < (wrapY c j + 1) * c.width := by rw [cellAddr, Nat.succ_mul]; omega
    _ ≤ c.height * c.width := Nat.mul_le_mul_right _ hy
    _ = c.ncells := Nat.mul_comm _ _

end Sys2Proof.Machine
end

