-- ==== Sys2Proof/Laws/Memory.lean ====
section
/-! SUPPORT. The laws of the grid as data: a read after a write, and that every operation keeps the canonical form. -/

namespace Sys2Proof.Machine

theorem Memory.read_cons (a b : Nat) (v : Code) (m : Memory) (h : Memory.read m a = Config.space) :
    Memory.read (Memory.cons a v m) b = if a = b then v else Memory.read m b := by
  unfold Memory.cons
  split
  · subst v; split
    · next e => rw [← e, h]
    · rfl
  · rfl

theorem Memory.wfFrom_mono {n lo lo' : Nat} {m : Memory} (h : lo' ≤ lo) (hm : Memory.wfFrom n lo m = true) :
    Memory.wfFrom n lo' m = true := by
  cases m with
  | nil => rfl
  | cons e rest =>
    obtain ⟨k, v⟩ := e
    simp only [Memory.wfFrom, Bool.and_eq_true, decide_eq_true_eq] at hm ⊢
    exact ⟨⟨⟨by omega, hm.1.1.2⟩, hm.1.2⟩, hm.2⟩

/-- Below its first address a memory in canonical form reads as space. -/
theorem Memory.read_of_lt {n lo a : Nat} {m : Memory} (hm : Memory.wfFrom n lo m = true) (h : a < lo) :
    Memory.read m a = Config.space := by
  induction m generalizing lo with
  | nil => rfl
  | cons e rest ih =>
    obtain ⟨k, v⟩ := e
    simp only [Memory.wfFrom, Bool.and_eq_true, decide_eq_true_eq] at hm
    rw [Memory.read, if_neg (by omega)]
    exact ih hm.2 (by omega)

theorem Memory.wfFrom_consEntry {n lo a : Nat} {v : Code} {m : Memory} (hlo : lo ≤ a) (hn : a < n)
    (hm : Memory.wfFrom n (a + 1) m = true) : Memory.wfFrom n lo (Memory.cons a v m) = true := by
  unfold Memory.cons
  split
  · exact Memory.wfFrom_mono (by omega) hm
  · next h => simp [Memory.wfFrom, hlo, hn, hm, h]

theorem Memory.wfFrom_write {n lo a : Nat} (v : Code) {m : Memory} (hlo : lo ≤ a) (hn : a < n)
    (hm : Memory.wfFrom n lo m = true) : Memory.wfFrom n lo (Memory.write m a v) = true := by
  induction m generalizing lo with
  | nil => exact Memory.wfFrom_consEntry hlo hn rfl
  | cons e rest ih =>
    obtain ⟨k, w⟩ := e
    have hm' := hm
    simp only [Memory.wfFrom, Bool.and_eq_true, decide_eq_true_eq] at hm'
    unfold Memory.write
    split
    · refine Memory.wfFrom_consEntry hlo hn ?_
      simp only [Memory.wfFrom, Bool.and_eq_true, decide_eq_true_eq]
      exact ⟨⟨⟨by omega, hm'.1.1.2⟩, hm'.1.2⟩, hm'.2⟩
    · split
      · next h => subst h; exact Memory.wfFrom_consEntry hlo hn hm'.2
      · simp only [Memory.wfFrom, Bool.and_eq_true, decide_eq_true_eq]
        exact ⟨hm'.1, ih (by omega) hm'.2⟩

/-- A write of an existing cell keeps the canonical form. -/
theorem Memory.wf_write {n a : Nat} (v : Code) {m : Memory} (hn : a < n) (hm : m.wf n = true) :
    (m.write a v).wf n = true := Memory.wfFrom_write v (Nat.zero_le _) hn hm

/-- Read after write, for contents whose listed addresses rise strictly. -/
theorem Memory.read_write {n lo a : Nat} (v : Code) {m : Memory} (hm : Memory.wfFrom n lo m = true) (b : Nat) :
    Memory.read (Memory.write m a v) b = if a = b then v else Memory.read m b := by
  induction m generalizing lo with
  | nil => exact Memory.read_cons a b v [] rfl
  | cons e rest ih =>
    obtain ⟨k, w⟩ := e
    have hm' := hm
    simp only [Memory.wfFrom, Bool.and_eq_true, decide_eq_true_eq] at hm'
    unfold Memory.write
    split
    · next h =>
      refine Memory.read_cons a b v _ ?_
      rw [Memory.read, if_neg (by omega)]
      exact Memory.read_of_lt hm'.2 (by omega)
    · split
      · next h =>
        subst h
        rw [Memory.read_cons a b v rest (Memory.read_of_lt hm'.2 (by omega))]
        simp only [Memory.read]
        split <;> rfl
      · next h1 h2 =>
        simp only [Memory.read]
        rw [ih hm'.2]
        by_cases hb : k = b
        · subst hb; simp [h2]
        · simp [hb]

theorem Memory.wfFrom_ofImageFrom {n : Nat} (image : List Code) (k : Nat) (h : k + image.length ≤ n) :
    Memory.wfFrom n k (Memory.ofImageFrom k image) = true := by
  induction image generalizing k with
  | nil => rfl
  | cons v rest ih =>
    rw [List.length_cons] at h
    exact Memory.wfFrom_consEntry (Nat.le_refl k) (by omega) (ih (k + 1) (by omega))

/-- The contents of an image that fits the grid are in canonical form. -/
theorem Memory.wf_ofImage {n : Nat} (image : List Code) (h : image.length ≤ n) :
    (Memory.ofImage image).wf n = true :=
  Memory.wfFrom_ofImageFrom image 0 (by omega)

theorem Memory.read_ofImageFrom (image : List Code) (k a : Nat) :
    Memory.read (Memory.ofImageFrom k image) (k + a) = image.getD a Config.space := by
  induction image generalizing k a with
  | nil => rfl
  | cons v rest ih =>
    have hsp : Memory.read (Memory.ofImageFrom (k + 1) rest) k = Config.space :=
      Memory.read_of_lt (Memory.wfFrom_ofImageFrom (n := k + 1 + rest.length) rest (k + 1) (Nat.le_refl _)) (by omega)
    rw [Memory.ofImageFrom, Memory.read_cons _ _ _ _ hsp]
    cases a with
    | zero => simp
    | succ a => rw [if_neg (by omega), show k + (a + 1) = k + 1 + a by omega, ih]; simp

/-- Image element `a` is the code of cell `a` (rule R240). -/
theorem Memory.read_ofImage (image : List Code) (a : Nat) :
    (Memory.ofImage image).read a = image.getD a Config.space := by
  simpa [Memory.ofImage] using Memory.read_ofImageFrom image 0 a

end Sys2Proof.Machine
end

