-- ==== Sys2Proof/Laws/State.lean ====
section
/-! SUPPORT. One lemma per field per named update of the state, and what `pop` gives. -/

namespace Sys2Proof.Machine

@[simp] theorem emit_cfg (e : Event) (s : State) : (emit e s).cfg = s.cfg := rfl
@[simp] theorem emit_grid (e : Event) (s : State) : (emit e s).grid = s.grid := rfl
@[simp] theorem emit_x (e : Event) (s : State) : (emit e s).x = s.x := rfl
@[simp] theorem emit_y (e : Event) (s : State) : (emit e s).y = s.y := rfl
@[simp] theorem emit_dir (e : Event) (s : State) : (emit e s).dir = s.dir := rfl
@[simp] theorem emit_stack (e : Event) (s : State) : (emit e s).stack = s.stack := rfl
@[simp] theorem emit_smode (e : Event) (s : State) : (emit e s).smode = s.smode := rfl
@[simp] theorem emit_acc (e : Event) (s : State) : (emit e s).acc = s.acc := rfl
@[simp] theorem emit_steps (e : Event) (s : State) : (emit e s).steps = s.steps := rfl
@[simp] theorem emit_status (e : Event) (s : State) : (emit e s).status = s.status := rfl
@[simp] theorem emit_faultReason (e : Event) (s : State) : (emit e s).faultReason = s.faultReason := rfl
@[simp] theorem emit_cancelPending (e : Event) (s : State) : (emit e s).cancelPending = s.cancelPending := rfl
@[simp] theorem emit_event (e : Event) (s : State) : (emit e s).event = e := rfl
@[simp] theorem emit_trace (e : Event) (s : State) : (emit e s).trace = s.trace ++ [e] := rfl
@[simp] theorem emit_script (e : Event) (s : State) : (emit e s).script = s.script := rfl
@[simp] theorem emit_draws (e : Event) (s : State) : (emit e s).draws = s.draws := rfl
@[simp] theorem emit_drawCount (e : Event) (s : State) : (emit e s).drawCount = s.drawCount := rfl

@[simp] theorem countStep_cfg (s : State) : (countStep s).cfg = s.cfg := rfl
@[simp] theorem countStep_grid (s : State) : (countStep s).grid = s.grid := rfl
@[simp] theorem countStep_x (s : State) : (countStep s).x = s.x := rfl
@[simp] theorem countStep_y (s : State) : (countStep s).y = s.y := rfl
@[simp] theorem countStep_dir (s : State) : (countStep s).dir = s.dir := rfl
@[simp] theorem countStep_stack (s : State) : (countStep s).stack = s.stack := rfl
@[simp] theorem countStep_smode (s : State) : (countStep s).smode = s.smode := rfl
@[simp] theorem countStep_acc (s : State) : (countStep s).acc = s.acc := rfl
@[simp] theorem countStep_steps (s : State) : (countStep s).steps = s.steps + 1 := rfl
@[simp] theorem countStep_status (s : State) : (countStep s).status = s.status := rfl
@[simp] theorem countStep_faultReason (s : State) : (countStep s).faultReason = s.faultReason := rfl
@[simp] theorem countStep_cancelPending (s : State) : (countStep s).cancelPending = s.cancelPending := rfl
@[simp] theorem countStep_event (s : State) : (countStep s).event = s.event := rfl
@[simp] theorem countStep_trace (s : State) : (countStep s).trace = s.trace := rfl
@[simp] theorem countStep_script (s : State) : (countStep s).script = s.script := rfl
@[simp] theorem countStep_draws (s : State) : (countStep s).draws = s.draws := rfl
@[simp] theorem countStep_drawCount (s : State) : (countStep s).drawCount = s.drawCount := rfl

@[simp] theorem advance_cfg (s : State) : (advance s).cfg = s.cfg := rfl
@[simp] theorem advance_grid (s : State) : (advance s).grid = s.grid := rfl
@[simp] theorem advance_x (s : State) : (advance s).x = wrapX s.cfg (s.x + dx s.dir) := rfl
@[simp] theorem advance_y (s : State) : (advance s).y = wrapY s.cfg (s.y + dy s.dir) := rfl
@[simp] theorem advance_dir (s : State) : (advance s).dir = s.dir := rfl
@[simp] theorem advance_stack (s : State) : (advance s).stack = s.stack := rfl
@[simp] theorem advance_smode (s : State) : (advance s).smode = s.smode := rfl
@[simp] theorem advance_acc (s : State) : (advance s).acc = s.acc := rfl
@[simp] theorem advance_steps (s : State) : (advance s).steps = s.steps := rfl
@[simp] theorem advance_status (s : State) : (advance s).status = s.status := rfl
@[simp] theorem advance_faultReason (s : State) : (advance s).faultReason = s.faultReason := rfl
@[simp] theorem advance_cancelPending (s : State) : (advance s).cancelPending = s.cancelPending := rfl
@[simp] theorem advance_event (s : State) : (advance s).event = s.event := rfl
@[simp] theorem advance_trace (s : State) : (advance s).trace = s.trace := rfl
@[simp] theorem advance_script (s : State) : (advance s).script = s.script := rfl
@[simp] theorem advance_draws (s : State) : (advance s).draws = s.draws := rfl
@[simp] theorem advance_drawCount (s : State) : (advance s).drawCount = s.drawCount := rfl

@[simp] theorem gridWrite_cfg (i j v : Int) (s : State) : (gridWrite i j v s).cfg = s.cfg := rfl
@[simp] theorem gridWrite_grid (i j v : Int) (s : State) : (gridWrite i j v s).grid = s.grid.write (cellAddr s.cfg i j) (toCode s.cfg v) := rfl
@[simp] theorem gridWrite_x (i j v : Int) (s : State) : (gridWrite i j v s).x = s.x := rfl
@[simp] theorem gridWrite_y (i j v : Int) (s : State) : (gridWrite i j v s).y = s.y := rfl
@[simp] theorem gridWrite_dir (i j v : Int) (s : State) : (gridWrite i j v s).dir = s.dir := rfl
@[simp] theorem gridWrite_stack (i j v : Int) (s : State) : (gridWrite i j v s).stack = s.stack := rfl
@[simp] theorem gridWrite_smode (i j v : Int) (s : State) : (gridWrite i j v s).smode = s.smode := rfl
@[simp] theorem gridWrite_acc (i j v : Int) (s : State) : (gridWrite i j v s).acc = s.acc := rfl
@[simp] theorem gridWrite_steps (i j v : Int) (s : State) : (gridWrite i j v s).steps = s.steps := rfl
@[simp] theorem gridWrite_status (i j v : Int) (s : State) : (gridWrite i j v s).status = s.status := rfl
@[simp] theorem gridWrite_faultReason (i j v : Int) (s : State) : (gridWrite i j v s).faultReason = s.faultReason := rfl
@[simp] theorem gridWrite_cancelPending (i j v : Int) (s : State) : (gridWrite i j v s).cancelPending = s.cancelPending := rfl
@[simp] theorem gridWrite_event (i j v : Int) (s : State) : (gridWrite i j v s).event = s.event := rfl
@[simp] theorem gridWrite_trace (i j v : Int) (s : State) : (gridWrite i j v s).trace = s.trace := rfl
@[simp] theorem gridWrite_script (i j v : Int) (s : State) : (gridWrite i j v s).script = s.script := rfl
@[simp] theorem gridWrite_draws (i j v : Int) (s : State) : (gridWrite i j v s).draws = s.draws := rfl
@[simp] theorem gridWrite_drawCount (i j v : Int) (s : State) : (gridWrite i j v s).drawCount = s.drawCount := rfl

@[simp] theorem setStringMode_cfg (b : Bool) (s : State) : (setStringMode b s).cfg = s.cfg := rfl
@[simp] theorem setStringMode_grid (b : Bool) (s : State) : (setStringMode b s).grid = s.grid := rfl
@[simp] theorem setStringMode_x (b : Bool) (s : State) : (setStringMode b s).x = s.x := rfl
@[simp] theorem setStringMode_y (b : Bool) (s : State) : (setStringMode b s).y = s.y := rfl
@[simp] theorem setStringMode_dir (b : Bool) (s : State) : (setStringMode b s).dir = s.dir := rfl
@[simp] theorem setStringMode_stack (b : Bool) (s : State) : (setStringMode b s).stack = s.stack := rfl
@[simp] theorem setStringMode_smode (b : Bool) (s : State) : (setStringMode b s).smode = b := rfl
@[simp] theorem setStringMode_acc (b : Bool) (s : State) : (setStringMode b s).acc = s.acc := rfl
@[simp] theorem setStringMode_steps (b : Bool) (s : State) : (setStringMode b s).steps = s.steps := rfl
@[simp] theorem setStringMode_status (b : Bool) (s : State) : (setStringMode b s).status = s.status := rfl
@[simp] theorem setStringMode_faultReason (b : Bool) (s : State) : (setStringMode b s).faultReason = s.faultReason := rfl
@[simp] theorem setStringMode_cancelPending (b : Bool) (s : State) : (setStringMode b s).cancelPending = s.cancelPending := rfl
@[simp] theorem setStringMode_event (b : Bool) (s : State) : (setStringMode b s).event = s.event := rfl
@[simp] theorem setStringMode_trace (b : Bool) (s : State) : (setStringMode b s).trace = s.trace := rfl
@[simp] theorem setStringMode_script (b : Bool) (s : State) : (setStringMode b s).script = s.script := rfl
@[simp] theorem setStringMode_draws (b : Bool) (s : State) : (setStringMode b s).draws = s.draws := rfl
@[simp] theorem setStringMode_drawCount (b : Bool) (s : State) : (setStringMode b s).drawCount = s.drawCount := rfl

/-- Everything `Pop()` does (rule R35): the top or 0, and a stack without its top. -/
theorem pop_eq (s : State) : pop s = (s.stack.getD 0 0, { s with stack := s.stack.drop 1 }) := by
  rcases s with ⟨cfg, grid, x, y, dir, stack⟩
  cases stack <;> rfl

end Sys2Proof.Machine
end

