-- ==== Sys2Proof/Laws/Ops.lean ====
section
/-! SUPPORT. For each shared operation of the machine, one lemma that says what it answers. -/

namespace Sys2Proof.Machine

/-- `Push` succeeds exactly when the build accepts it. -/
theorem pushCheck_eq_none (c : Config) (depth : Nat) (v : Int) : pushCheck c depth v = none ↔ Accepts c depth v := by
  unfold pushCheck Accepts
  by_cases h : c.stackCap = some depth
  · simp [h]
  · cases hv : c.valueBits with
    | none => simp [h]
    | some n => simp [h, inRange]

theorem pushCheck_stackOverflow {c : Config} {depth : Nat} (v : Int) (h : c.stackCap = some depth) :
    pushCheck c depth v = some .stackOverflow := by
  simp [pushCheck, h]

theorem pushCheck_valueOverflow {c : Config} {depth : Nat} {v : Int} (h : TooWide c depth v) :
    pushCheck c depth v = some .valueOverflow := by
  obtain ⟨h1, n, hn, hv⟩ := h
  simp only [pushCheck, h1, if_false, hn, Option.all_some, inRange, Bool.and_eq_true, decide_eq_true_eq]
  rw [if_neg (by omega)]

/-- Only the build's own bounds give a reason. -/
theorem pushCheck_reason {c : Config} {depth : Nat} {v : Int} {r : FaultReason} (h : pushCheck c depth v = some r) :
    (r = .stackOverflow → c.stackCap ≠ none) ∧ (r = .valueOverflow → c.valueBits ≠ none) := by
  unfold pushCheck at h
  split at h
  · next hc => cases h; simp [hc]
  · split at h
    · cases h
    · next hv => cases h; constructor
                 · intro h; cases h
                 · rintro - hn; simp [hn] at hv

theorem push_of_accepts {s : State} {v : Int} (h : Accepts s.cfg s.stack.length v) :
    push v s = .ok { s with stack := v :: s.stack } := by
  simp [push, (pushCheck_eq_none _ _ _).mpr h]

/-- `COMPLETE(1)` gives the next state of rule R102. -/
theorem complete_one (e : Event) (s : State) : complete 1 e s = .next (s.completed e) := by
  simp only [complete, advanceBy, State.completed, movedOn, emit, countStep, advance, wrapX_eq, wrapY_eq]

/-- `COMPLETE(2)` moves twice along the same direction. -/
theorem complete_two (e : Event) (s : State) :
    complete 2 e s = .next { s.completed e with
      x := movedOn s.cfg.width (movedOn s.cfg.width s.x (dx s.dir)) (dx s.dir)
      y := movedOn s.cfg.height (movedOn s.cfg.height s.y (dy s.dir)) (dy s.dir) } := by
  simp only [complete, advanceBy, State.completed, movedOn, emit, countStep, advance, wrapX_eq, wrapY_eq]

theorem takeFault_eq (r : FaultReason) (s : State) : takeFault r s = .next (s.faultedBy r) := rfl

theorem turn_eq (d : Dir) (s : State) : turn d s = .next (State.completed { s with dir := d } .directionChanged) :=
  complete_one _ _

/-- Everything `pushResult` can do: complete with the value pushed, or fault from the state before the command. -/
theorem pushResult_eq (s0 : State) (v : Int) (s : State) :
    pushResult s0 v s = match pushCheck s.cfg s.stack.length v with
      | none => .next (State.completed { s with stack := v :: s.stack } (.stackPushed v))
      | some r => .next (s0.faultedBy r) := by
  unfold pushResult push
  cases pushCheck s.cfg s.stack.length v with
  | none => exact complete_one _ _
  | some r => rfl

theorem pushResult_of_accepts (s0 : State) {v : Int} {s : State} (h : Accepts s.cfg s.stack.length v) :
    pushResult s0 v s = .next (State.completed { s with stack := v :: s.stack } (.stackPushed v)) := by
  rw [pushResult_eq, (pushCheck_eq_none _ _ _).mpr h]

/-- Everything `pushTwo` can do (rule R219). -/
theorem pushTwo_eq (s0 : State) (v w : Int) (s : State) :
    pushTwo s0 v w s = match pushCheck s.cfg s.stack.length v with
      | none => pushResult s0 w { s with stack := v :: s.stack }
      | some r => .next (s0.faultedBy r) := by
  unfold pushTwo push
  cases pushCheck s.cfg s.stack.length v <;> rfl

theorem unaryOp_eq (f : Int → Int) (s : State) :
    unaryOp f s = pushResult s (f (s.nth 0)) { s with stack := s.stack.drop 1 } := by
  simp only [unaryOp, pop_eq, State.nth]

theorem binaryOp_eq (f : Int → Int → Int) (s : State) :
    binaryOp f s = pushResult s (f (s.nth 1) (s.nth 0)) { s with stack := s.stack.drop 2 } := by
  simp [binaryOp, pop_eq, State.nth]

/-- In a build with rule R197's parser, as this hardware is, a line is read by it. -/
theorem parseLine_of_r197 {c : Config} (h : c.parseInt = .r197) (line : List Nat) : parseLine c line = parseInt line := by
  rw [parseLine, h]

/-- In a build with another parser, nothing is known of it. -/
theorem parseLine_of_foreign {c : Config} {k : Nat} (h : c.parseInt = .foreign k) (line : List Nat) :
    parseLine c line = Config.foreignParse k line := by
  rw [parseLine, h]

/-- Everything that completing a `RESUME` can do (rule R193). -/
theorem resumeWith_eq (v : Int) (s : State) :
    resumeWith v s = match pushCheck s.cfg s.stack.length v with
      | none => .next (State.completed { s with stack := v :: s.stack, status := .running } (.stackPushed v))
      | some r => .next (s.faultedBy r) := by
  unfold resumeWith push
  cases pushCheck s.cfg s.stack.length v with
  | none => exact complete_one _ _
  | some r => rfl

theorem cellAddr_eq (c : Config) (i j : Int) : cellAddr c i j = addressOf c i j := by
  rw [cellAddr, addressOf, wrapX_eq, wrapY_eq]

end Sys2Proof.Machine
end

