-- ==== Sys2Proof/Laws/PerInstr.lean ====
section
/-! SUPPORT. A fact about each instruction as syntax: the quote's code belongs to the two quote instructions alone, so
in either mode the quote is never data and never a no-op (rules R82, R86 and R142). -/

namespace Sys2Proof.Laws

def QuoteCode.Statement (i : Instr) : Prop := i.wf = true → encode i = 0x22 → i = .strOn ∨ i = .strOff

theorem QuoteCode.goEast : QuoteCode.Statement .goEast := by unfold QuoteCode.Statement; decide

theorem QuoteCode.goWest : QuoteCode.Statement .goWest := by unfold QuoteCode.Statement; decide

theorem QuoteCode.goNorth : QuoteCode.Statement .goNorth := by unfold QuoteCode.Statement; decide

theorem QuoteCode.goSouth : QuoteCode.Statement .goSouth := by unfold QuoteCode.Statement; decide

theorem QuoteCode.goRandom : QuoteCode.Statement .goRandom := by unfold QuoteCode.Statement; decide

theorem QuoteCode.ifHoriz : QuoteCode.Statement .ifHoriz := by unfold QuoteCode.Statement; decide

theorem QuoteCode.ifVert : QuoteCode.Statement .ifVert := by unfold QuoteCode.Statement; decide

theorem QuoteCode.strOn : QuoteCode.Statement .strOn := by unfold QuoteCode.Statement; decide

theorem QuoteCode.push0 : QuoteCode.Statement .push0 := by unfold QuoteCode.Statement; decide

theorem QuoteCode.push1 : QuoteCode.Statement .push1 := by unfold QuoteCode.Statement; decide

theorem QuoteCode.push2 : QuoteCode.Statement .push2 := by unfold QuoteCode.Statement; decide

theorem QuoteCode.push3 : QuoteCode.Statement .push3 := by unfold QuoteCode.Statement; decide

theorem QuoteCode.push4 : QuoteCode.Statement .push4 := by unfold QuoteCode.Statement; decide

theorem QuoteCode.push5 : QuoteCode.Statement .push5 := by unfold QuoteCode.Statement; decide

theorem QuoteCode.push6 : QuoteCode.Statement .push6 := by unfold QuoteCode.Statement; decide

theorem QuoteCode.push7 : QuoteCode.Statement .push7 := by unfold QuoteCode.Statement; decide

theorem QuoteCode.push8 : QuoteCode.Statement .push8 := by unfold QuoteCode.Statement; decide

theorem QuoteCode.push9 : QuoteCode.Statement .push9 := by unfold QuoteCode.Statement; decide

theorem QuoteCode.add : QuoteCode.Statement .add := by unfold QuoteCode.Statement; decide

theorem QuoteCode.sub : QuoteCode.Statement .sub := by unfold QuoteCode.Statement; decide

theorem QuoteCode.mul : QuoteCode.Statement .mul := by unfold QuoteCode.Statement; decide

theorem QuoteCode.div : QuoteCode.Statement .div := by unfold QuoteCode.Statement; decide

theorem QuoteCode.mod : QuoteCode.Statement .mod := by unfold QuoteCode.Statement; decide

theorem QuoteCode.not : QuoteCode.Statement .not := by unfold QuoteCode.Statement; decide

theorem QuoteCode.gt : QuoteCode.Statement .gt := by unfold QuoteCode.Statement; decide

theorem QuoteCode.dup : QuoteCode.Statement .dup := by unfold QuoteCode.Statement; decide

theorem QuoteCode.swap : QuoteCode.Statement .swap := by unfold QuoteCode.Statement; decide

theorem QuoteCode.drop : QuoteCode.Statement .drop := by unfold QuoteCode.Statement; decide

theorem QuoteCode.outInt : QuoteCode.Statement .outInt := by unfold QuoteCode.Statement; decide

theorem QuoteCode.outChr : QuoteCode.Statement .outChr := by unfold QuoteCode.Statement; decide

theorem QuoteCode.bridge : QuoteCode.Statement .bridge := by unfold QuoteCode.Statement; decide

theorem QuoteCode.get : QuoteCode.Statement .get := by unfold QuoteCode.Statement; decide

theorem QuoteCode.put : QuoteCode.Statement .put := by unfold QuoteCode.Statement; decide

theorem QuoteCode.inInt : QuoteCode.Statement .inInt := by unfold QuoteCode.Statement; decide

theorem QuoteCode.inChr : QuoteCode.Statement .inChr := by unfold QuoteCode.Statement; decide

theorem QuoteCode.halt : QuoteCode.Statement .halt := by unfold QuoteCode.Statement; decide

theorem QuoteCode.nop : QuoteCode.Statement .nop := by unfold QuoteCode.Statement; decide

theorem QuoteCode.strPush (op : Code) : QuoteCode.Statement (.strPush op) := by
  intro h e
  simp only [encode] at e
  simp [Instr.wf, e] at h

theorem QuoteCode.strOff : QuoteCode.Statement .strOff := by unfold QuoteCode.Statement; decide

theorem QuoteCode.nopOther (op : Code) : QuoteCode.Statement (.nopOther op) := by
  intro h e
  simp only [encode] at e
  subst e
  exact absurd h (by decide)

end Sys2Proof.Laws
end

