-- ==== Sys2Proof/Tests/Slice0.lean ====
section
/-! SUPPORT. The model's own tests: expected results are those of spec/95_test_vectors.md and of the tables of
spec/30_encoding.md, never the model's own answers. Then, for each statement of Obligations.lean with hypotheses, a
witness that meets them. -/

namespace Sys2Proof.Tests

open Sys2Proof Sys2Proof.Machine

/-! ### Helpers -/

def nextOf : Host.Outcome State Fault Refusal → Option State
  | .next s => some s
  | .fault _ => none
  | .refused _ => none

/-- The state after reset with a stack given bottom first, as the spec writes it. -/
def withStack (l : List Int) : State := { State.reset with stack := l.reverse }

/-- The stack after an instruction, bottom first. -/
def stackAfter (i : Instr) (l : List Int) : Option (List Int) :=
  (nextOf (exec i (withStack l))).map State.stackBottomFirst

def eventAfter (i : Instr) (s : State) : Option Event := (nextOf (exec i s)).map State.event

/-- The instruction pointer (column, row, direction) after an instruction. -/
def pointerAfter (i : Instr) (s : State) : Option (Nat × Nat × Dir) :=
  (nextOf (exec i s)).map (fun t => (t.x, t.y, t.dir))

def atCell (x y : Nat) (d : Dir) : State := { State.reset with x := x, y := y, dir := d }

/-- A build with 9 value bits and a stack of two (rule R6). -/
def smallBuild : Config := { Config.rr25 with valueBits := some 9, stackCap := some 2, legal := rfl }

def smallWith (l : List Int) : State := { withStack l with cfg := smallBuild }

def truncBuild : Config := { Config.rr25 with divMode := .trunc, legal := rfl }

def oneBuild : Config := { Config.rr25 with dupEmpty := .one, legal := rfl }

/-- A build that takes some parser other than rule R197's (I5). -/
def otherParserBuild : Config := { Config.rr25 with parseInt := .foreign 0, legal := rfl }

def codes (s : String) : List Nat := s.toList.map Char.toNat

/-! ### Decoding: the binary column of rule R82, row by row -/

theorem test_decode_direction :
    decodeCell false 0b00111110 = .goEast ∧ decodeCell false 0b00111100 = .goWest ∧
    decodeCell false 0b01011110 = .goNorth ∧ decodeCell false 0b01110110 = .goSouth ∧
    decodeCell false 0b00111111 = .goRandom ∧ decodeCell false 0b01011111 = .ifHoriz ∧
    decodeCell false 0b01111100 = .ifVert ∧ decodeCell false 0b00100011 = .bridge := by decide

theorem test_decode_digits :
    decodeCell false 0b00110000 = .push0 ∧ decodeCell false 0b00110001 = .push1 ∧
    decodeCell false 0b00110010 = .push2 ∧ decodeCell false 0b00110011 = .push3 ∧
    decodeCell false 0b00110100 = .push4 ∧ decodeCell false 0b00110101 = .push5 ∧
    decodeCell false 0b00110110 = .push6 ∧ decodeCell false 0b00110111 = .push7 ∧
    decodeCell false 0b00111000 = .push8 ∧ decodeCell false 0b00111001 = .push9 := by decide

theorem test_decode_alu :
    decodeCell false 0b00101011 = .add ∧ decodeCell false 0b00101101 = .sub ∧
    decodeCell false 0b00101010 = .mul ∧ decodeCell false 0b00101111 = .div ∧
    decodeCell false 0b00100101 = .mod ∧ decodeCell false 0b00100001 = .not ∧
    decodeCell false 0b01100000 = .gt := by decide

theorem test_decode_stack_and_grid :
    decodeCell false 0b00111010 = .dup ∧ decodeCell false 0b01011100 = .swap ∧
    decodeCell false 0b00100100 = .drop ∧ decodeCell false 0b01100111 = .get ∧
    decodeCell false 0b01110000 = .put := by decide

theorem test_decode_io_and_nops :
    decodeCell false 0b00101110 = .outInt ∧ decodeCell false 0b00101100 = .outChr ∧
    decodeCell false 0b00100110 = .inInt ∧ decodeCell false 0b01111110 = .inChr ∧
    decodeCell false 0b01000000 = .halt ∧ decodeCell false 0b00100000 = .nop ∧
    decodeCell false 0x41 = .nopOther 0x41 ∧ decodeCell false 0xFF = .nopOther 0xFF := by decide

theorem test_decode_string_mode :
    decodeCell false 0b00100010 = .strOn ∧ decodeCell true 0b00100010 = .strOff ∧
    decodeCell true 0x40 = .strPush 0x40 ∧ decodeCell true 0x20 = .strPush 0x20 := by decide

/-- Rule R88: the near misses are no-ops. -/
theorem test_decode_near_misses :
    ∀ c ∈ [(0x56 : Code), 0x47, 0x50, 0x27, 0x3B, 0x3D, 0x5B, 0x5D, 0x7B, 0x7D, 0x7F], decodeCell false c = .nopOther c := by
  decide

theorem test_decode_takes_one_cell :
    decode false [0x2B, 0x2D] = .ok (.add, [0x2D]) ∧ decode false [] = .error .noCell := by
  exact ⟨rfl, rfl⟩

theorem test_no_two_rows_share_a_code : (opcodeRows.map (fun r => r.1)).Nodup ∧ opcodeRows.length = 37 := by decide

theorem test_table_word : decodeTableWord 8 0x67 = some .get ∧ decodeTableWord 16 0x0038 = some .push8 ∧
    decodeTableWord 16 0x0239 = some .push9 := by decide

/-- WellFormed refuses an ill-formed term for each of its checks. -/
theorem test_wellformed_refuses :
    (Instr.strPush 0x22).wf = false ∧ (Instr.nopOther 0x2B).wf = false ∧ (Instr.nopOther 0x20).wf = false ∧
    (Instr.nopOther 0x22).wf = false ∧ (Instr.nopOther 0x7E).wf = false := by decide

theorem test_wellformed_accepts :
    (Instr.strPush 0x21).wf = true ∧ (Instr.nopOther 0x41).wf = true ∧ (Instr.nopOther 0xFF).wf = true := by decide

/-! ### Parameters, encoder, grid (vectors 2.1) -/

theorem test_parameters :
    Config.rr25.ncells = 2000 ∧ Config.rr25.xBits = 7 ∧ Config.rr25.yBits = 5 ∧ Config.rr25.aBits = 11 := by decide

theorem test_cell_addresses :
    cellAddr Config.rr25 79 24 = 1999 ∧ cellAddr Config.rr25 (-1) (-1) = 1999 ∧ cellAddr Config.rr25 (-81) 26 = 159 ∧
    cellAddr Config.rr25 250 (-20) = 410 ∧ cellAddr Config.rr25 (-80) (-25) = 0 ∧
    cellAddr Config.rr25 (10 ^ 12) (10 ^ 12) = 0 := by decide

theorem test_value_reduction :
    ([-1, 256, 300, -256, -257].map (toCode Config.rr25)) = [255, 0, 44, 0, 255] := by decide

theorem test_write_keeps_form :
    (Memory.write [(3, 1), (9, 2)] 5 7) = [(3, 1), (5, 7), (9, 2)] ∧ (Memory.write [(3, 1), (9, 2)] 3 0x20) = [(9, 2)] ∧
    (Memory.write [(3, 1)] 5 0x20) = [(3, 1)] := by decide

/-- Rule R129's reference mapping: 3, 2, 3 and 2 draws in ten (W10). -/
theorem test_reference_draws :
    ((List.range 10).map Config.rr25.weights.referenceDraw) =
      [.east, .east, .east, .west, .west, .south, .south, .south, .north, .north] ∧
    ([Dir.east, .west, .south, .north].map (fun d => ((List.range 10).map Config.rr25.weights.referenceDraw).count d)) =
      [Dir.east, .west, .south, .north].map Config.rr25.weights.part := by decide

/-! ### Instructions (vectors 2.2 to 2.9) -/

theorem test_nop_wraps_east : pointerAfter .nop (atCell 79 3 .east) = some (0, 3, .east) := by decide

theorem test_nopOther_wraps_north : pointerAfter (.nopOther 0x41) (atCell 5 0 .north) = some (5, 24, .north) := by decide

theorem test_goEast : pointerAfter .goEast (atCell 5 3 .north) = some (6, 3, .east) := by decide

theorem test_goWest_wraps : pointerAfter .goWest (atCell 0 0 .east) = some (79, 0, .west) := by decide

theorem test_goNorth_wraps : pointerAfter .goNorth (atCell 1 0 .west) = some (1, 24, .north) := by decide

theorem test_goSouth_wraps : pointerAfter .goSouth (atCell 3 24 .east) = some (3, 0, .south) := by decide

theorem test_goRandom :
    pointerAfter .goRandom { atCell 3 0 .east with draws := [.north, .east] } = some (3, 24, .north) := by decide

theorem test_ifHoriz :
    pointerAfter .ifHoriz { atCell 7 1 .east with stack := [2] } = some (6, 1, .west) ∧
    pointerAfter .ifHoriz (atCell 7 1 .north) = some (8, 1, .east) := by decide

theorem test_ifVert :
    pointerAfter .ifVert { atCell 3 0 .east with stack := [-1, 5] } = some (3, 24, .north) ∧
    pointerAfter .ifVert { atCell 3 2 .east with stack := [0] } = some (3, 3, .south) := by decide

theorem test_bridge :
    pointerAfter .bridge (atCell 78 0 .east) = some (0, 0, .east) ∧
    pointerAfter .bridge (atCell 1 0 .west) = some (79, 0, .west) ∧
    (nextOf (exec .bridge (atCell 0 24 .south))).map (fun t => (t.y, t.steps)) = some (1, 1) := by decide

theorem test_strOn_strOff :
    (nextOf (exec .strOn State.reset)).map State.smode = some true ∧
    (nextOf (exec .strOff { State.reset with smode := true })).map State.smode = some false := by decide

theorem test_strPush : stackAfter (.strPush 0x40) [1] = some [1, 64] ∧ stackAfter (.strPush 0xFF) [] = some [255] := by
  decide

theorem test_digits :
    ([Instr.push0, .push1, .push2, .push3, .push4, .push5, .push6, .push7, .push8, .push9].map
      (fun i => stackAfter i [4])) = (List.range 10).map (fun k => some [4, (k : Int)]) := by decide

theorem test_add : stackAfter .add [-2, -3] = some [-5] ∧ stackAfter .add [1, 2, 3] = some [1, 5] := by decide

theorem test_sub : stackAfter .sub [9, 3] = some [6] ∧ stackAfter .sub [7] = some [-7] := by decide

theorem test_mul : stackAfter .mul [2 ^ 70, 2 ^ 70] = some [2 ^ 140] ∧ stackAfter .mul [7] = some [0] := by decide

theorem test_div :
    ([[7, 2], [-7, 2], [7, -2], [-7, -2], [-1, 2], [5, 0], [6, 3]].map (stackAfter .div)) =
      [[3], [-4], [-4], [3], [-1], [0], [2]].map some := by decide

theorem test_mod :
    ([[7, 2], [-7, 2], [7, -2], [-7, -2], [-9, 10], [5, 0], [6, 3]].map (stackAfter .mod)) =
      [[1], [1], [-1], [-1], [1], [0], [0]].map some := by decide

theorem test_trunc_build :
    (nextOf (exec .div { withStack [-7, 2] with cfg := truncBuild })).map State.stack = some [-3] ∧
    (nextOf (exec .mod { withStack [-7, 2] with cfg := truncBuild })).map State.stack = some [-1] := by decide

theorem test_not : ([[0], [5], [-1], []].map (stackAfter .not)) = [[1], [0], [0], [1]].map some := by decide

theorem test_gt :
    ([[5, 2], [2, 5], [5, 5], [-1, -2], [-1], []].map (stackAfter .gt)) = [[1], [0], [0], [1], [1], [0]].map some := by
  decide

theorem test_dup : stackAfter .dup [1, 2] = some [1, 2, 2] ∧ stackAfter .dup [] = some [0, 0] ∧
    (nextOf (exec .dup { State.reset with cfg := oneBuild })).map State.stack = some [0] := by decide

theorem test_swap :
    ([[1, 2], [5], [], [7, 8, 9]].map (stackAfter .swap)) = [[2, 1], [5, 0], [0, 0], [7, 9, 8]].map some := by decide

theorem test_swap_event : eventAfter .swap (withStack [7, 8, 9]) = some (.stackPushed 8) := by decide

theorem test_drop : stackAfter .drop [1, 2] = some [1] ∧ eventAfter .drop State.reset = some (.stackPopped 0) := by decide

theorem test_get :
    (nextOf (exec .get { withStack [-20, 250] with grid := [(410, 0x41)] })).map State.stack = some [65] ∧
    stackAfter .get [0, 79] = some [32] := by decide

theorem test_put :
    (nextOf (exec .put (withStack [7, 26, -81]))).map State.grid = some [(159, 7)] ∧
    (nextOf (exec .put (withStack [9]))).map State.grid = some [(9, 0)] := by decide

theorem test_put_event : eventAfter .put (withStack [7, 25, 80]) = some (.cellWritten 0 0 7) ∧
    eventAfter .put (withStack [-1, 1, 1]) = some (.cellWritten 1 1 255) := by decide

theorem test_outInt : eventAfter .outInt (withStack [-12]) = some (.integerOutput (-12)) ∧
    (nextOf (exec .outInt (withStack [-12]))).map State.acc = some [] := by decide

theorem test_outChr :
    (nextOf (exec .outChr { withStack [300] with acc := [72] })).map State.acc = some [72, 300] ∧
    eventAfter .outChr (withStack [-1]) = some (.characterOutput (-1)) := by decide

theorem test_inInt : (nextOf (exec .inInt State.reset)).map (fun t => (t.status, t.x, t.steps)) =
    some (.awaitInt, 0, 0) := by decide

theorem test_inChr : eventAfter .inChr State.reset = some (.inputRequested .character) := by decide

theorem test_halt : (nextOf (exec .halt (atCell 4 0 .east))).map (fun t => (t.status, t.x, t.steps, t.result)) =
    some (.halted, 4, 1, .halted) := by decide

/-! ### Commands (vectors 2.3, 2.9, 2.10) -/

theorem test_resume :
    (nextOf (command (.resume (codes "12")) { State.reset with status := .awaitInt })).map
      (fun t => (t.stack, t.x, t.status, t.steps)) = some ([12], 1, .running, 1) ∧
    (nextOf (command (.resume (codes " x")) { State.reset with status := .awaitChr })).map State.stack = some [32] := by
  decide

theorem test_parse_int :
    (["12", " -5 ", "+7", "007", "-0", "\t42\r\n", "", "   ", "abc", "12abc", "1 2", "+", "--1", "0x10", "1_000",
      "123456789012345678901234567890"].map (fun l => parseInt (codes l))) =
      [12, -5, 7, 7, 0, 42, 0, 0, 0, 0, 0, 0, 0, 0, 0, 123456789012345678901234567890] := by decide

/-- A line that does not parse under rule R197 is the other parser's affair, and the machine goes on whatever it says. -/
theorem test_other_parser :
    parseLine Config.rr25 (codes "1_000") = 0 ∧
    (nextOf (command (.resume (codes "1_000")) { State.reset with cfg := otherParserBuild, status := .awaitInt })).map
      (fun t => (t.stack, t.status)) = some ([Config.foreignParse 0 (codes "1_000")], .running) :=
  ⟨by decide, rfl⟩

theorem test_cancel_between_steps :
    (nextOf (command .step { withStack [5, 5] with x := 2, steps := 2, cancelPending := true, grid := [(2, 0x2B)] })).map
      (fun t => (t.status, t.x, t.stack, t.steps)) = some (.interrupted, 2, [5, 5], 2) := by decide

theorem test_ignored :
    (nextOf (command .step { State.reset with status := .awaitInt })).map (fun t => (t.status, t.event, t.steps)) =
      some (.awaitInt, .none, 0) ∧
    (nextOf (command (.resume (codes "5")) State.reset)).map (fun t => (t.status, t.stack)) = some (.running, []) := by
  decide

theorem test_script :
    (nextOf (step { State.reset with script := [.cancelReq, .step] })).map (fun t => (t.cancelPending, t.script)) =
      some (true, [.step]) := by decide

theorem test_load_lines :
    splitLines false ((codes "ab\r\ncd\ref\ngh").map (BitVec.ofNat 8)) =
      [[0x61, 0x62], [0x63, 0x64], [0x65, 0x66], [0x67, 0x68]] := by decide

theorem test_malformed_reset : command (.reset [0x40]) State.reset = .refused (.malformedImage 1) := by rfl

theorem test_tap : tapCell 1999 State.reset = .next 0x20 ∧ tapCell 2000 State.reset = .fault (.noSuchCell 2000) := by
  exact ⟨rfl, rfl⟩

theorem test_placed_word_runs :
    (nextOf (step (State.reset.withFetchWord 8 0x35))).map (fun t => (t.stack, t.x)) = some ([5], 1) := by decide

/-! ### Finite builds (vectors 2.11) -/

theorem test_dup_overflows_the_stack :
    (nextOf (exec .dup (smallWith [1, 7]))).map (fun t => (t.status, t.faultReason, t.stack, t.steps)) =
      some (.faulted, some .stackOverflow, [7, 1], 0) := by decide

theorem test_swap_at_the_cap : (nextOf (exec .swap (smallWith [1, 7]))).map (fun t => (t.status, t.stack)) =
    some (.running, [1, 7]) := by decide

theorem test_div_overflows_the_width :
    (nextOf (exec .div (smallWith [-256, -1]))).map (fun t => (t.faultReason, t.event, t.stack)) =
      some (some .valueOverflow, .faulted .valueOverflow, [-1, -256]) := by decide

/-! ### Witnesses: states and operands that meet the hypotheses of each statement -/

theorem accepts_rr25 (depth : Nat) (v : Int) : Accepts Config.rr25 depth v :=
  ⟨nofun, nofun⟩

/-- 255 is the greatest value of 9 bits, and a stack of one is below the cap of two. -/
theorem accepts_smallBuild : Accepts smallBuild 1 255 :=
  ⟨by decide, by intro n h; cases h; decide⟩

theorem witness_FloorDivisionAndRemainder : (2 : Int) ≠ 0 ∧ (-2 : Int) ≠ 0 ∧ fdiv (-7) 2 = -4 ∧ fdiv 7 (-2) = -4 := by
  decide

theorem witness_CellAddressesNumberTheGrid : 1999 < Config.rr25.ncells ∧ cellAddr Config.rr25 (79 : Nat) (24 : Nat) = 1999 := by
  decide

theorem witness_GridWriteThenRead :
    State.reset.grid.wf State.reset.cfg.ncells = true ∧ gridRead (gridWrite 0 0 300 State.reset) 80 25 = 44 ∧
    gridRead (gridWrite 0 0 300 State.reset) 79 24 = 0x20 := by decide

theorem witness_EqualReadsAreEqualGrids :
    Memory.wf 2000 [(0, 1), (1999, 2)] = true ∧ Memory.wf 2000 (Memory.write [(1999, 2)] 0 1) = true ∧
    Memory.write [(1999, 2)] 0 1 = [(0, 1), (1999, 2)] := by decide

/-- The two edges of each axis. -/
theorem witness_AdvanceNeedsNoDivider :
    (atCell 79 0 .east).x < Config.rr25.width ∧ (advance (atCell 79 0 .east)).x = 0 ∧
    (advance (atCell 0 0 .west)).x = 79 ∧ (advance (atCell 0 24 .south)).y = 0 ∧
    (atCell 0 24 .south).y < Config.rr25.height ∧ (advance (atCell 0 0 .north)).y = 24 := by decide

theorem witness_DecodeOfEncodeIsTheInstruction :
    (Instr.strPush 0xFF).wf = true ∧ (Instr.nopOther 0x7F).wf = true ∧ Instr.put.wf = true := by decide

theorem witness_AStepRunsTheDecodedInstruction :
    State.reset.status = .running ∧ State.reset.cancelPending = false ∧ State.reset.script = [] ∧
    Instr.nop.wf = true ∧ Instr.nop.stringMode = State.reset.smode ∧ gridRead State.reset 0 0 = encode .nop ∧
    { State.reset with script := [.step, .cancelReq] }.script = .step :: [.cancelReq] := by decide

theorem witness_APlacedWordIsRunNext :
    (atCell 79 24 .north).grid.wf Config.rr25.ncells = true ∧ 79 < Config.rr25.width ∧ 24 < Config.rr25.height := by decide

theorem witness_PendingCancellationWins :
    { State.reset with cancelPending := true }.status = .running ∧
    { State.reset with cancelPending := true }.cancelPending = true := by decide

theorem witness_CommandsOutOfTurnAreIgnored :
    { State.reset with status := .halted }.status ≠ .running ∧ State.reset.status ≠ .awaitInt ∧
    State.reset.status ≠ .awaitChr := by decide

theorem witness_EveryCommandDrivesOneEvent :
    (nextOf (command .step { State.reset with grid := [(0, 0x26)] })).map State.status = some .awaitInt ∧
    (nextOf (command .step { State.reset with grid := [(0, 0x7E)] })).map State.status = some .awaitChr ∧
    (nextOf (command .step { State.reset with grid := [(0, 0x40)] })).map State.status = some .halted ∧
    (nextOf (command .step { State.reset with cancelPending := true })).map State.status = some .interrupted ∧
    (nextOf (command (.resume []) { State.reset with status := .awaitChr })).isSome = true := by decide

/-- A next state for every kind of command, with a fault of a small build among them. -/
theorem witness_StatusFollowsTheTransitionTable :
    (nextOf (command .cancelReq State.reset)).isSome = true ∧ (nextOf (command .step State.reset)).isSome = true ∧
    (nextOf (command (.resume [0x35]) { smallWith [1, 2] with status := .awaitInt })).map State.status = some .faulted ∧
    (nextOf (command .step { smallWith [1, 2] with grid := [(0, 0x33)] })).map State.status = some .faulted := by decide

theorem witness_reset_command : command (.reset (List.replicate 2000 0x40)) State.reset =
    .next (resetState (List.replicate 2000 0x40) State.reset) := by
  generalize h : List.replicate 2000 (0x40 : Code) = image
  have hl : image.length = State.reset.cfg.ncells := by rw [← h, List.length_replicate]; rfl
  exact if_pos hl

theorem witness_StepsCountCompletedInstructions :
    (nextOf (command .step State.reset)).map State.steps = some 1 ∧
    (nextOf (command (.resume []) { State.reset with status := .awaitChr, steps := 4 })).map State.steps = some 5 := by
  decide

theorem witness_OnlyResetClearsTheCancelLatch :
    (nextOf (command .step { State.reset with cancelPending := true })).map State.cancelPending = some true := by decide

theorem witness_OnlyPutWritesTheGrid :
    (nextOf (command .step { withStack [65, 24, 79] with grid := [(0, 0x70)] })).map State.grid =
      some [(0, 0x70), (1999, 65)] := by decide

theorem witness_InstructionsWriteOnlyWhatTheTableSays :
    (nextOf (exec .add (withStack [1, 2]))).isSome = true ∧ (nextOf (exec .inInt State.reset)).isSome = true ∧
    (nextOf (exec (.nopOther 0x41) State.reset)).isSome = true ∧
    (nextOf (exec .push1 (smallWith [1, 2]))).map State.status = some .faulted := by decide

theorem witness_AnEndedRunIsFrozen :
    { State.reset with status := .halted, script := [.step, .resume [], .cancelReq] }.status.terminal = true ∧
    ∀ c ∈ [HostAction.step, .resume [], .cancelReq], ∀ image, c ≠ .reset image := by
  refine ⟨rfl, ?_⟩
  intro c hc image h
  subst h
  simp at hc

theorem witness_GoRandomFollowsTheDraw :
    { State.reset with draws := [.north] }.draws = .north :: [] ∧ State.reset.draws = [] := by decide

theorem witness_StringModePushesCodes : (0xFF : Code) ≠ 0x22 ∧ Accepts smallBuild 1 ((0xFF : Code).toNat) :=
  ⟨by decide, accepts_smallBuild⟩

theorem witness_StringLiteralsPushInOrder :
    let s : State := { State.reset with smode := true, dir := .west, grid := [(0, 0x41), (79, 0x42)] }
    Unbounded s.cfg ∧ s.status = .running ∧ s.cancelPending = false ∧ s.smode = true ∧ s.script = [] ∧
    (0x22 : Code) ∉ [(0x41 : Code), 0x42] ∧
    (∀ k : Nat, k < 2 → gridRead s (s.x + k * dx s.dir) (s.y + k * dy s.dir) = [(0x41 : Code), 0x42].getD k 0) := by
  refine ⟨⟨rfl, rfl⟩, by decide, by decide, by decide, by decide, by decide, by decide⟩

theorem witness_DigitsPushTheirValue : Accepts smallBuild (smallWith [1]).stack.length ((9 : Nat) : Int) :=
  ⟨by decide, by intro n h; cases h; decide⟩

theorem witness_AddSubMulAreExact : Accepts smallBuild ((smallWith [16, 15]).stack.length - 2) (15 * 16) :=
  ⟨by decide, by intro n h; cases h; decide⟩

theorem witness_DivAndModRoundAsTheBuildSays :
    Config.rr25.divMode = .floor ∧ truncBuild.divMode = .trunc ∧ Int.fdiv (-7) 2 = -4 ∧ Int.tdiv (-7) 2 = -3 ∧
    Accepts Config.rr25 0 (-4) :=
  ⟨rfl, rfl, by decide, by decide, accepts_rr25 0 (-4)⟩

theorem witness_NotAndGreaterThan : Accepts smallBuild ((smallWith []).stack.length - 2) 0 :=
  ⟨by decide, by intro n h; cases h; decide⟩

theorem witness_DupRepeatsTheTop :
    smallBuild.dupEmpty = .two ∧ Accepts smallBuild ((smallWith []).stack.length - 1) 0 ∧
    Accepts smallBuild ((smallWith []).stack.length - 1 + 1) 0 ∧ oneBuild.dupEmpty = .one ∧ Accepts oneBuild 0 0 :=
  ⟨rfl, ⟨by decide, by intro n h; cases h; decide⟩, ⟨by decide, by intro n h; cases h; decide⟩, rfl,
    ⟨nofun, nofun⟩⟩

theorem witness_SwapAndDrop : Accepts smallBuild ((smallWith [1, 7]).stack.length - 2) 7 ∧
    Accepts smallBuild ((smallWith [1, 7]).stack.length - 2 + 1) 1 :=
  ⟨⟨by decide, by intro n h; cases h; decide⟩, ⟨by decide, by intro n h; cases h; decide⟩⟩

/-- An empty stack and two zeros, in builds that read `:` differently. -/
theorem witness_StackDepthIsUnobservable :
    Unbounded State.reset.cfg ∧ Indistinct State.reset { withStack [0, 0] with cfg := oneBuild } := by
  refine ⟨⟨rfl, rfl⟩, ?_, rfl, rfl⟩
  intro n
  match n with
  | 0 => rfl
  | 1 => rfl
  | _ + 2 => rfl

theorem witness_GetPushesACell :
    ((gridRead State.reset 0 0).toNat : Int) = 32 ∧ Accepts State.reset.cfg (State.reset.stack.length - 2) 32 :=
  ⟨by decide, accepts_rr25 _ _⟩

theorem witness_PutWritesOneCell : (withStack [7, -1, -1]).grid.wf Config.rr25.ncells = true := by decide

theorem witness_PutThenGet :
    let s := withStack [300, 24, 79]
    ∃ t, exec .put s = .next t ∧ s.grid.wf s.cfg.ncells = true ∧ (-1 : Int) % (s.cfg.width : Int) = s.nth 0 % (s.cfg.width : Int) ∧
      (-1 : Int) % (s.cfg.height : Int) = s.nth 1 % (s.cfg.height : Int) ∧
      { t with stack := [-1, -1] }.stack = -1 :: -1 :: [] ∧ Accepts { t with stack := [-1, -1] }.cfg 0 (s.nth 2 % 256) := by
  exact ⟨_, rfl, by decide, by decide, by decide, rfl, accepts_rr25 _ _⟩

/-- A `p` onto the very cell it advances to, and one onto another cell. -/
theorem witness_TheNextFetchSeesTheWrite :
    (nextOf (exec .put (withStack [64, 0, 1]))).map (fun t => (addressOf t.cfg t.x t.y, gridRead t t.x t.y)) =
      some (addressOf Config.rr25 1 0, 64) ∧
    (nextOf (exec .put (withStack [64, 0, 2]))).map (fun t => gridRead t t.x t.y) = some 0x20 := by decide

theorem witness_ResumeCompletesTheInput :
    { smallWith [1] with status := .awaitInt }.status = .awaitInt ∧ parseLine smallBuild (codes "255") = 255 ∧
    Accepts smallBuild (smallWith [1]).stack.length 255 ∧ State.reset.status ∉ [Status.awaitInt, .awaitChr] ∧
    { State.reset with status := .awaitChr }.status = .awaitChr ∧ ((([] : List Nat).headD 0 : Nat) : Int) = 0 :=
  ⟨rfl, by decide, accepts_smallBuild, by decide, rfl, rfl⟩

theorem witness_ParseIntFollowsTheGrammar :
    (∀ c ∈ [0x20] ++ [0x0D, 0x0A], c ∈ [0x09, 0x0A, 0x0B, 0x0C, 0x0D, 0x20]) ∧ (∀ d ∈ [0x30, 0x39], 0x30 ≤ d ∧ d ≤ 0x39) ∧
    some 0x2D ∈ [none, some 0x2B, some 0x2D] ∧ Config.rr25.parseInt = .r197 ∧ parseLine Config.rr25 ([0x20] ++ [0x2D] ++ [0x30, 0x39] ++ [0x0D, 0x0A]) = -9 := by decide

/-- The empty line has no digits, so it does not parse. -/
theorem witness_ParseIntRefuses :
    ¬ ∃ (before after ds : List Nat) (sign : Option Nat),
      (∀ c ∈ before ++ after, c ∈ [0x09, 0x0A, 0x0B, 0x0C, 0x0D, 0x20]) ∧ (∀ d ∈ ds, 0x30 ≤ d ∧ d ≤ 0x39) ∧ ds ≠ [] ∧
      sign ∈ [none, some 0x2B, some 0x2D] ∧ ([] : List Nat) = before ++ sign.toList ++ ds ++ after := by
  rintro ⟨before, after, ds, sign, -, -, h, -, e⟩
  simp at e
  exact h e.2.2.1

theorem witness_UnboundedBuildsNeverFault :
    Unbounded State.reset.cfg ∧ State.reset.status ≠ .faulted ∧ State.reset.faultReason = none ∧
    (nextOf (step State.reset)).isSome = true :=
  ⟨⟨rfl, rfl⟩, by decide, rfl, by decide⟩

theorem witness_FaultsArePrecise :
    (smallWith [1, 2]).status ≠ .faulted ∧
    (nextOf (command .step { smallWith [1, 2] with grid := [(0, 0x33)] })).map State.status = some .faulted := by decide

/-- 256 does not fit 9 bits, and neither does -257. -/
theorem witness_APushThatDoesNotFitFaults :
    smallBuild.stackCap = some (smallWith [1, 2]).stack.length ∧ TooWide smallBuild 0 256 ∧ TooWide smallBuild 0 (-257) :=
  ⟨rfl, ⟨by decide, 9, rfl, by decide⟩, ⟨by decide, 9, rfl, by decide⟩⟩

theorem witness_TheFirstFailingPushDecides :
    Accepts smallBuild ((smallWith [1, 7]).stack.length - 1) 7 ∧
    smallBuild.stackCap = some ((smallWith [1, 7]).stack.length - 1 + 1) ∧
    TooWide smallBuild ((smallWith [1, 300]).stack.length - 1) 300 :=
  ⟨⟨by decide, by intro n h; cases h; decide⟩, rfl, ⟨by decide, 9, rfl, by decide⟩⟩

/-- A swap whose second push alone is too wide. -/
theorem witness_TheFirstFailingPushDecides_second :
    Accepts smallBuild ((smallWith [7, 300]).stack.length - 2) 7 ∧
    TooWide smallBuild ((smallWith [7, 300]).stack.length - 2 + 1) 300 :=
  ⟨⟨by decide, by intro n h; cases h; decide⟩, ⟨by decide, 9, rfl, by decide⟩⟩

/-- A build with one zero for an empty `:`, its stack full, or too narrow for the top. -/
theorem witness_TheFirstFailingPushDecides_one :
    let s : State := { withStack [1, 300] with cfg := { smallBuild with dupEmpty := .one, legal := rfl } }
    s.cfg.dupEmpty = .one ∧ s.cfg.stackCap = some s.stack.length ∧
    TooWide { smallBuild with dupEmpty := .one, legal := rfl } [(300 : Int)].length 300 :=
  ⟨rfl, rfl, ⟨by decide, 9, rfl, by decide⟩⟩

/-- A wait with a full stack, and one whose line is too wide. -/
theorem witness_APushThatDoesNotFitFaults_resume :
    { smallWith [1, 2] with status := .awaitInt }.status = .awaitInt ∧
    smallBuild.stackCap = some (smallWith [1, 2]).stack.length ∧ parseLine smallBuild (codes "256") = 256 ∧
    TooWide smallBuild (smallWith []).stack.length 256 :=
  ⟨rfl, rfl, by decide, ⟨by decide, 9, rfl, by decide⟩⟩

theorem witness_CancellationDuringAWaitIsTakenAfterIt :
    { State.reset with status := .awaitInt }.status = .awaitInt ∧ parseLine State.reset.cfg (codes "4") = 4 ∧
    Accepts State.reset.cfg State.reset.stack.length 4 ∧ firstCode [] = 0 :=
  ⟨rfl, by decide, accepts_rr25 _ _, rfl⟩

theorem witness_TheFirstResetStartsTheMachine : (List.replicate 2000 (0x40 : Code)).length = 2000 :=
  List.length_replicate

theorem witness_ResetGivesEveryValue :
    (List.replicate 2000 (0x40 : Code)).length = { State.reset with status := .faulted }.cfg.ncells := by
  rw [List.length_replicate]; rfl

theorem witness_TheLoaderPadsAndCuts : 79 < Config.rr25.width ∧ 24 < Config.rr25.height := by decide

theorem witness_LinesEndAtEachTerminator :
    (0x0A : Code) ∉ [(0x61 : Code)] ∧ (0x0D : Code) ∉ [(0x61 : Code)] ∧ [(0x0D : Code), 0x0A].head? ≠ some 0x0A := by decide

theorem witness_EveryStepKeepsTheInvariant : Inv State.reset ∧ (nextOf (step State.reset)).isSome = true := by
  refine ⟨⟨by decide, by decide, by decide, by decide, by decide, by decide, by decide, by decide, by decide, by decide,
    by decide, by decide, by decide⟩, by decide⟩

/-- A bounded build, and the least width of a row number and one below it. -/
theorem witness_ParametersFollowTheTable :
    smallBuild.valueBits = some 9 ∧ 9 ≤ smallBuild.cellBits + 1 ∧ Config.rr25.yBits ≤ 5 ∧ 24 < 2 ^ 5 ∧ ¬ 24 < 2 ^ 4 := by
  decide

end Sys2Proof.Tests
end

section
/-! The family 00_scope: the floored division of rule R8, the parameters of rule R6 and the reference draw of rule R129. -/

namespace Sys2Proof.Scope

open Sys2Proof Sys2Proof.Machine

/-! ### Floored division (rule R8) -/

/-- The defining equation of `fmod`, solved for the dividend. -/
theorem mul_fdiv_add_fmod (b a : Int) : a * fdiv b a + fmod b a = b := by
  rw [fmod]; omega

theorem fmod_bounds_of_pos (b : Int) {a : Int} (ha : 0 < a) : 0 ≤ fmod b a ∧ fmod b a < a := by
  rw [fmod_eq]
  exact ⟨Int.fmod_nonneg_of_pos b ha, Int.fmod_lt_of_pos b ha⟩

theorem fmod_neg_neg (b a : Int) : fmod (-b) (-a) = -fmod b a := by
  rw [fmod_eq, fmod_eq, Int.neg_fmod_neg]

/-- The bounds for a negative divisor are those of the negated operands. -/
theorem fmod_bounds_of_neg (b : Int) {a : Int} (ha : a < 0) : a < fmod b a ∧ fmod b a ≤ 0 := by
  have h := fmod_bounds_of_pos (-b) (a := -a) (by omega)
  rw [fmod_neg_neg] at h
  omega

/-- The remainder is a fraction of the divisor from 0 on and below 1, whatever the divisor's sign. -/
theorem fmod_div_bounds (b : Int) {a : Int} (ha : a ≠ 0) :
    0 ≤ (fmod b a : Rat) / a ∧ (fmod b a : Rat) / a < 1 := by
  rcases lt_or_gt_of_ne ha with hneg | hpos
  · obtain ⟨hlow, hhigh⟩ := fmod_bounds_of_neg b hneg
    have ha' : (a : Rat) < 0 := by exact_mod_cast hneg
    exact ⟨div_nonneg_of_nonpos (by exact_mod_cast hhigh) ha'.le, (div_lt_one_of_neg ha').2 (by exact_mod_cast hlow)⟩
  · obtain ⟨hlow, hhigh⟩ := fmod_bounds_of_pos b hpos
    have ha' : (0 : Rat) < a := by exact_mod_cast hpos
    exact ⟨div_nonneg (by exact_mod_cast hlow) ha'.le, (div_lt_one ha').2 (by exact_mod_cast hhigh)⟩

theorem div_eq_fdiv_add (b : Int) {a : Int} (ha : a ≠ 0) :
    (b : Rat) / a = fdiv b a + (fmod b a : Rat) / a := by
  have ha' : (a : Rat) ≠ 0 := by exact_mod_cast ha
  have h : (b : Rat) = a * fdiv b a + fmod b a := by exact_mod_cast (mul_fdiv_add_fmod b a).symm
  rw [h, add_div, mul_div_cancel_left₀ _ ha']

/-- `fdiv` is the library's floor of the rational quotient. -/
theorem floor_div_eq_fdiv (b : Int) {a : Int} (ha : a ≠ 0) : ⌊(b : Rat) / (a : Rat)⌋ = fdiv b a := by
  obtain ⟨hlow, hhigh⟩ := fmod_div_bounds b ha
  rw [div_eq_fdiv_add b ha, Int.floor_eq_iff]
  exact ⟨by linarith, by linarith⟩

/-- Settles O1: the remainder's bounds by the divisor's sign, and the quotient as the floor of the rational one. -/
theorem floorDivisionAndRemainder : Obligations.FloorDivisionAndRemainder := by
  intro b a ha
  refine ⟨(mul_fdiv_add_fmod b a).symm, fmod_bounds_of_pos b, fmod_bounds_of_neg b, fun q => ?_⟩
  rw [← floor_div_eq_fdiv b ha, Int.le_floor]

/-! ### Widths (rule R6) -/

/-- `log2 m + 1` is the least width, from 1 on, that holds `m`. -/
theorem lt_two_pow_iff_log2_succ_le (m : Nat) {n : Nat} (hn : 1 ≤ n) : m < 2 ^ n ↔ Nat.log2 m + 1 ≤ n := by
  rcases Nat.eq_zero_or_pos m with rfl | hm
  · simpa using hn
  · exact (Nat.log2_lt hm.ne').symm

/-! ### The reference draw (rule R129) -/

theorem map_range_eq_replicate {f : Nat → Dir} {n : Nat} {d : Dir} (h : ∀ u < n, f u = d) :
    (List.range n).map f = List.replicate n d :=
  List.eq_replicate_iff.2 ⟨by simp, by simpa using h⟩

/-- The draws below the total fall into four consecutive blocks, one a direction, each as long as its weight. -/
theorem map_referenceDraw_range (w : Weights) :
    (List.range w.total).map w.referenceDraw =
      List.replicate w.east .east ++ List.replicate w.west .west ++ List.replicate w.south .south ++
        List.replicate w.north .north := by
  have heast : ∀ u < w.east, w.referenceDraw u = .east := fun u hu => by
    rw [Weights.referenceDraw, if_pos hu]
  have hwest : ∀ u < w.west, w.referenceDraw (w.east + u) = .west := fun u hu => by
    rw [Weights.referenceDraw, if_neg (by omega), if_pos (by omega)]
  have hsouth : ∀ u < w.south, w.referenceDraw (w.east + w.west + u) = .south := fun u hu => by
    rw [Weights.referenceDraw, if_neg (by omega), if_neg (by omega), if_pos (by omega)]
  have hnorth : ∀ u < w.north, w.referenceDraw (w.east + w.west + w.south + u) = .north := fun u _ => by
    rw [Weights.referenceDraw, if_neg (by omega), if_neg (by omega), if_neg (by omega)]
  simp only [Weights.total, List.range_add, List.map_append, List.map_map, Function.comp_def]
  rw [map_range_eq_replicate heast, map_range_eq_replicate hwest, map_range_eq_replicate hsouth,
    map_range_eq_replicate hnorth]

/-- Of the draws below the total, each direction has its weight. -/
theorem count_referenceDraw (w : Weights) (d : Dir) :
    ((List.range w.total).map w.referenceDraw).count d = w.part d := by
  rw [map_referenceDraw_range]
  cases d <;> simp [List.count_replicate, Weights.part]

/-- Settles O60: the table by evaluation, every build's legality by the proof it carries, the widths by
`lt_two_pow_iff_log2_succ_le`, and the weights by the blocks of draws. -/
theorem parametersFollowTheTable : Obligations.ParametersFollowTheTable := by
  refine ⟨by decide, fun c => ?_, count_referenceDraw⟩
  obtain ⟨hwidth, hheight, hcell, hdir, hvalue, hstep⟩ := Config_legal c
  exact ⟨hwidth, hheight, rfl, hcell, hdir, hstep, hvalue, fun n hn =>
    ⟨lt_two_pow_iff_log2_succ_le _ hn, lt_two_pow_iff_log2_succ_le _ hn, lt_two_pow_iff_log2_succ_le _ hn⟩⟩

end Sys2Proof.Scope
end

section
/-! What an instruction and a command can do, said once: the table of rule R52 as a relation between the state before an
instruction and the state its own writes give, the ways an instruction ends (rule R100), and one inversion lemma for
each command (rule R45). -/

namespace Sys2Proof.Machine

/-! ### The bounds of a finite build -/

/-- Every value of a list fits the build's width (rule R216). -/
def ValuesFit (c : Config) (l : List Int) : Prop := c.valueBits.all (fun n => l.all (inRange n)) = true

/-- The invariant's two clauses on the stack: its depth (rule R217) and its values (rule R216). -/
def StackFits (c : Config) (l : List Int) : Prop :=
  c.stackCap.all (fun k => decide (l.length ≤ k)) = true ∧ ValuesFit c l

/-- The build has the bound that the reason names (rule R42). -/
def MayFault (c : Config) (r : FaultReason) : Prop :=
  (r = .stackOverflow → c.stackCap ≠ none) ∧ (r = .valueOverflow → c.valueBits ≠ none)

theorem valuesFit_iff (c : Config) (l : List Int) :
    ValuesFit c l ↔ ∀ n, c.valueBits = some n → ∀ v ∈ l, inRange n v = true := by
  simp [ValuesFit, Option.all_eq_true]

theorem depthFits_iff (c : Config) (l : List Int) :
    c.stackCap.all (fun k => decide (l.length ≤ k)) = true ↔ ∀ k, c.stackCap = some k → l.length ≤ k := by
  simp [Option.all_eq_true]

theorem inRange_zero (n : Nat) : inRange n 0 = true := by
  simp [inRange]

theorem inRange_of_accepts {c : Config} {depth n : Nat} {v : Int} (h : Accepts c depth v) (hn : c.valueBits = some n) :
    inRange n v = true := by
  simpa [inRange] using h.2 n hn

theorem StackFits.nil (c : Config) : StackFits c [] :=
  ⟨(depthFits_iff c _).2 fun _ _ => Nat.zero_le _, (valuesFit_iff c _).2 nofun⟩

theorem StackFits.drop {c : Config} {l : List Int} (n : Nat) (h : StackFits c l) : StackFits c (l.drop n) := by
  obtain ⟨hdepth, hvalues⟩ := h
  rw [depthFits_iff] at hdepth
  rw [valuesFit_iff] at hvalues
  refine ⟨(depthFits_iff c _).2 fun k hk => ?_, (valuesFit_iff c _).2 fun n hn v hv => ?_⟩
  · exact (by simp : (l.drop n).length ≤ l.length).trans (hdepth k hk)
  · exact hvalues n hn v (List.mem_of_mem_drop hv)

/-- A push that the build accepts keeps its bounds (rule R36). -/
theorem StackFits.cons {c : Config} {l : List Int} {v : Int} (hv : Accepts c l.length v) (h : StackFits c l) :
    StackFits c (v :: l) := by
  obtain ⟨hdepth, hvalues⟩ := h
  rw [depthFits_iff] at hdepth
  rw [valuesFit_iff] at hvalues
  refine ⟨(depthFits_iff c _).2 fun k hk => ?_, (valuesFit_iff c _).2 fun n hn => ?_⟩
  · have hle := hdepth k hk
    have hne : k ≠ l.length := fun e => hv.1 (e ▸ hk)
    rw [List.length_cons]
    omega
  · exact List.forall_mem_cons.2 ⟨inRange_of_accepts hv hn, hvalues n hn⟩

/-- Appending the popped value, the top or 0, keeps the accumulator in its bounds (rule R192). -/
theorem ValuesFit.append_nth {s : State} (n : Nat) (hacc : ValuesFit s.cfg s.acc) (hstack : StackFits s.cfg s.stack) :
    ValuesFit s.cfg (s.acc ++ [s.nth n]) := by
  have hvalues := hstack.2
  rw [valuesFit_iff] at hacc hvalues ⊢
  intro k hk v hv
  rcases List.mem_append.1 hv with hv | hv
  · exact hacc k hk v hv
  · rw [List.mem_singleton.1 hv, State.nth, List.getD_eq_getElem?_getD]
    cases he : s.stack[n]? with
    | none => exact inRange_zero k
    | some w => exact hvalues k hk w (List.mem_of_getElem? he)

theorem mayFault_of_pushCheck {c : Config} {depth : Nat} {v : Int} {r : FaultReason}
    (h : pushCheck c depth v = some r) : MayFault c r :=
  pushCheck_reason h

theorem MayFault.not_unbounded {c : Config} {r : FaultReason} (h : MayFault c r) : ¬ Unbounded c := by
  rintro ⟨hvalue, hcap⟩
  cases r with
  | valueOverflow => exact h.2 rfl hvalue
  | stackOverflow => exact h.1 rfl hcap

/-! ### What an instruction writes of its own (rule R52) -/

/-- The instructions that end with a push, the only ones that can fault (rules R36 and R218). -/
def pushes : Instr → Bool
  | .goEast | .goWest | .goNorth | .goSouth | .goRandom | .ifHoriz | .ifVert | .strOn | .strOff | .bridge
  | .drop | .outInt | .outChr | .put | .inInt | .inChr | .halt | .nop | .nopOther _ => false
  | .push0 | .push1 | .push2 | .push3 | .push4 | .push5 | .push6 | .push7 | .push8 | .push9
  | .add | .sub | .mul | .div | .mod | .not | .gt | .dup | .swap | .get | .strPush _ => true

/-- `Effect s i u`: before it advances, a completing instruction `i` takes the state `s` to `u`. One constructor for
each kind of row of rule R52's table. -/
inductive Effect (s : State) : Instr → State → Prop
  | turn {i} (d : Dir) (hi : i ∈ [.goEast, .goWest, .goNorth, .goSouth]) : Effect s i { s with dir := d }
  | draw (d : Dir) (draws : List Dir) (count : Nat) :
      Effect s .goRandom { s with draws := draws, drawCount := count, dir := d }
  | branch {i} (d : Dir) (hi : i ∈ [.ifHoriz, .ifVert]) : Effect s i { s with stack := s.stack.drop 1, dir := d }
  | quote {i} (b : Bool) (hi : i ∈ [.strOn, .strOff]) : Effect s i { s with smode := b }
  | nothing {i} (hi : i ∈ [.bridge, .nop] ∨ ∃ op, i = .nopOther op) : Effect s i s
  | pop {i} (hi : i ∈ [.drop, .outInt]) : Effect s i { s with stack := s.stack.drop 1 }
  | outChr : Effect s .outChr { s with stack := s.stack.drop 1, acc := s.acc ++ [s.nth 0] }
  | put (i j v : Int) : Effect s .put (gridWrite i j v { s with stack := s.stack.drop 3 })
  | push {i} (l : List Int) (hi : pushes i = true) (hl : StackFits s.cfg s.stack → StackFits s.cfg l) :
      Effect s i { s with stack := l }

/-- `Executed s i t`: the ways in which the instruction `i` can end from `s` in `t` (rule R100). -/
inductive Executed (s : State) (i : Instr) (t : State) : Prop
  | completed {u : State} (x y : Nat) (e : Event) (hu : Effect s i u) (hx : x < u.cfg.width) (hy : y < u.cfg.height)
      (ht : t = emit e (countStep { u with x := x, y := y }))
  | faulted (r : FaultReason) (hi : pushes i = true) (hr : MayFault s.cfg r) (ht : t = s.faultedBy r)
  | awaitsInt (hi : i = .inInt) (ht : t = State.reporting { s with status := .awaitInt } (.inputRequested .integer))
  | awaitsChr (hi : i = .inChr) (ht : t = State.reporting { s with status := .awaitChr } (.inputRequested .character))
  | halted (hi : i = .halt) (ht : t = State.reporting { s with status := .halted, steps := s.steps + 1 } .halted)

/-! ### Every instruction ends in one of these ways -/

/-- One or more advances end on the grid and write nothing but the position (rule R104). -/
theorem advanceBy_succ (n : Nat) (s : State) :
    ∃ x y, x < s.cfg.width ∧ y < s.cfg.height ∧ advanceBy (n + 1) s = { s with x := x, y := y } := by
  induction n generalizing s with
  | zero => exact ⟨_, _, wrapX_lt s.cfg _, wrapY_lt s.cfg _, rfl⟩
  | succ n ih => exact ih (advance s)

theorem executed_complete {i : Instr} {s t u : State} {n : Nat} {e : Event} (hu : Effect s i u)
    (h : complete (n + 1) e u = .next t) : Executed s i t := by
  obtain ⟨x, y, hx, hy, hadv⟩ := advanceBy_succ n u
  rw [complete, hadv] at h
  cases h
  exact .completed x y e hu hx hy rfl

theorem executed_pushResult {i : Instr} {s t : State} {v : Int} {l : List Int} (hi : pushes i = true)
    (hl : StackFits s.cfg s.stack → StackFits s.cfg l) (h : pushResult s v { s with stack := l } = .next t) :
    Executed s i t := by
  unfold pushResult push at h
  cases hc : pushCheck s.cfg l.length v with
  | none =>
    have hv := (pushCheck_eq_none _ _ _).1 hc
    simp only [hc] at h
    exact executed_complete (.push (v :: l) hi fun hs => (hl hs).cons hv) h
  | some r =>
    simp only [hc, takeFault_eq] at h
    cases h
    exact .faulted r hi (mayFault_of_pushCheck hc) rfl

theorem executed_pushTwo {i : Instr} {s t : State} {v w : Int} {l : List Int} (hi : pushes i = true)
    (hl : StackFits s.cfg s.stack → StackFits s.cfg l) (h : pushTwo s v w { s with stack := l } = .next t) :
    Executed s i t := by
  rw [pushTwo_eq] at h
  cases hc : pushCheck s.cfg l.length v with
  | none =>
    have hv := (pushCheck_eq_none _ _ _).1 hc
    simp only [hc] at h
    exact executed_pushResult hi (fun hs => (hl hs).cons hv) h
  | some r =>
    simp only [hc] at h
    cases h
    exact .faulted r hi (mayFault_of_pushCheck hc) rfl

theorem executed_unaryOp {i : Instr} {s t : State} {f : Int → Int} (hi : pushes i = true)
    (h : unaryOp f s = .next t) : Executed s i t := by
  rw [unaryOp_eq] at h
  exact executed_pushResult hi (.drop 1) h

theorem executed_binaryOp {i : Instr} {s t : State} {f : Int → Int → Int} (hi : pushes i = true)
    (h : binaryOp f s = .next t) : Executed s i t := by
  rw [binaryOp_eq] at h
  exact executed_pushResult hi (.drop 2) h

theorem executed_dup {s t : State} (h : execDup s = .next t) : Executed s .dup t := by
  unfold execDup at h
  split at h
  · rw [pop_eq] at h
    exact executed_pushTwo rfl (.drop 1) h
  · exact executed_pushResult rfl id h

theorem executed_goRandom {s t : State} (h : execGoRandom s = .next t) : Executed s .goRandom t := by
  cases hd : s.draws with
  | cons d rest =>
    simp only [execGoRandom, sampleDraw, hd, turn] at h
    exact executed_complete (.draw d rest s.drawCount) h
  | nil =>
    simp only [execGoRandom, sampleDraw, hd, turn] at h
    exact executed_complete (.draw _ [] _) h

/-- Everything an instruction can do. -/
theorem executed_of_exec {i : Instr} {s t : State} (h : exec i s = .next t) : Executed s i t := by
  cases i with
  | goEast | goWest | goNorth | goSouth => exact executed_complete (.turn _ (by decide)) h
  | goRandom => exact executed_goRandom h
  | ifHoriz =>
    simp only [exec, execIfHoriz, pop_eq, turn] at h
    exact executed_complete (.branch _ (by decide)) h
  | ifVert =>
    simp only [exec, execIfVert, pop_eq, turn] at h
    exact executed_complete (.branch _ (by decide)) h
  | strOn | strOff => exact executed_complete (.quote _ (by decide)) h
  | push0 | push1 | push2 | push3 | push4 | push5 | push6 | push7 | push8 | push9 | strPush =>
    exact executed_pushResult rfl id h
  | add | sub | mul | div | mod | gt | get =>
    simp only [exec, execAdd, execSub, execMul, execDiv, execMod, execGt, execGet] at h
    exact executed_binaryOp rfl h
  | not =>
    simp only [exec, execNot] at h
    exact executed_unaryOp rfl h
  | dup => exact executed_dup h
  | swap =>
    simp only [exec, execSwap, pop_eq, List.drop_drop] at h
    exact executed_pushTwo rfl (.drop 2) h
  | drop =>
    simp only [exec, execDrop, pop_eq] at h
    exact executed_complete (.pop (by decide)) h
  | outInt =>
    simp only [exec, execOutInt, pop_eq] at h
    exact executed_complete (.pop (by decide)) h
  | outChr =>
    simp only [exec, execOutChr, pop_eq] at h
    exact executed_complete .outChr h
  | put =>
    simp only [exec, execPut, pop_eq, List.drop_drop] at h
    exact executed_complete (.put _ _ _) h
  | bridge | nop => exact executed_complete (.nothing (.inl (by decide))) h
  | nopOther op => exact executed_complete (.nothing (.inr ⟨op, rfl⟩)) h
  | inInt => cases h; exact .awaitsInt rfl rfl
  | inChr => cases h; exact .awaitsChr rfl rfl
  | halt => cases h; exact .halted rfl rfl

/-! ### What each command can do -/

theorem Status.waiting_iff (st : Status) : st.waiting = true ↔ st = .awaitInt ∨ st = .awaitChr := by
  cases st <;> decide

/-- Everything a `STEP` can do (rules R100, R101 and R106). -/
theorem stepCommand_cases {s t : State} (h : stepCommand s = .next t) :
    (s.status ≠ .running ∧ t = s.reporting .none) ∨
    (s.status = .running ∧ s.cancelPending = true ∧
      t = State.reporting { s with status := .interrupted } .interrupted) ∨
    (s.status = .running ∧ s.cancelPending = false ∧ Executed s (currentInstr s) t) := by
  by_cases hrun : s.status = .running
  · simp only [stepCommand, hrun] at h
    by_cases hc : s.cancelPending = true
    · rw [if_pos hc] at h
      cases h
      exact .inr (.inl ⟨hrun, hc, rfl⟩)
    · rw [if_neg hc] at h
      exact .inr (.inr ⟨hrun, Bool.eq_false_of_not_eq_true hc, executed_of_exec h⟩)
  · refine .inl ⟨hrun, ?_⟩
    unfold stepCommand at h
    split at h
    · contradiction
    all_goals cases h; rfl

/-- Everything the completion of an input can do (rule R193). -/
theorem resumeWith_cases {s t : State} {v : Int} (h : resumeWith v s = .next t) :
    (∃ l e, (StackFits s.cfg s.stack → StackFits s.cfg l) ∧
      t = State.completed { s with stack := l, status := .running } e) ∨
    (∃ r, MayFault s.cfg r ∧ t = s.faultedBy r) := by
  rw [resumeWith_eq] at h
  cases hc : pushCheck s.cfg s.stack.length v with
  | none =>
    simp only [hc] at h
    cases h
    exact .inl ⟨v :: s.stack, _, .cons ((pushCheck_eq_none _ _ _).1 hc), rfl⟩
  | some r =>
    simp only [hc] at h
    cases h
    exact .inr ⟨r, mayFault_of_pushCheck hc, rfl⟩

/-- Everything a `RESUME` can do (rules R106 and R193). -/
theorem resumeCommand_cases {s t : State} {line : List Nat} (h : resumeCommand line s = .next t) :
    (s.status.waiting = false ∧ t = s.reporting .none) ∨
    (s.status.waiting = true ∧ ((∃ l e, (StackFits s.cfg s.stack → StackFits s.cfg l) ∧
        t = State.completed { s with stack := l, status := .running } e) ∨
      ∃ r, MayFault s.cfg r ∧ t = s.faultedBy r)) := by
  unfold resumeCommand at h
  split at h
  · next hs => exact .inr ⟨by rw [hs]; rfl, resumeWith_cases h⟩
  · next hs => exact .inr ⟨by rw [hs]; rfl, resumeWith_cases h⟩
  all_goals
    next hs => cases h; exact .inl ⟨by rw [hs]; rfl, rfl⟩

/-- Everything a `RESET` can do (rules R240 and R241). -/
theorem resetCommand_cases {s t : State} {image : List Code} (h : resetCommand image s = .next t) :
    image.length = s.cfg.ncells ∧ t = resetState image s := by
  unfold resetCommand at h
  split at h
  · next hlen => cases h; exact ⟨hlen, rfl⟩
  · cases h

/-- A step is a command of the host, taken from the state with what is left of the script (log 3). -/
theorem step_eq_command (s : State) : ∃ c rest, step s = command c { s with script := rest } := by
  unfold step runScript
  cases s.script with
  | nil => exact ⟨.step, s.script, rfl⟩
  | cons c rest => exact ⟨c, rest, rfl⟩

/-! ### The cell that an executed instruction came from -/

theorem opcodeRows_encode : ∀ r ∈ opcodeRows, encode r.2 = r.1 ∧ r.2.stringMode = false := by
  decide

/-- Decoding loses neither the mode nor the cell (rules R86 and R87). -/
theorem decodeCell_encode (smode : Bool) (op : Code) :
    (decodeCell smode op).stringMode = smode ∧ encode (decodeCell smode op) = op := by
  cases smode with
  | true =>
    simp only [decodeCell, decodeString]
    split
    · next hq => exact ⟨rfl, hq.symm⟩
    · exact ⟨rfl, rfl⟩
  | false =>
    simp only [decodeCell, decodeNormal]
    split
    · next r hr =>
      obtain ⟨hcode, hmode⟩ := opcodeRows_encode r (List.mem_of_find?_eq_some hr)
      have hop : r.1 = op := by simpa using List.find?_some hr
      exact ⟨hmode, hcode.trans hop⟩
    · exact ⟨rfl, rfl⟩

/-- The mode and the cell from which a `STEP` decoded its instruction. -/
theorem smode_and_fetch_of_currentInstr {s : State} {i : Instr} (h : currentInstr s = i) :
    s.smode = i.stringMode ∧ fetch s = encode i := by
  obtain ⟨hmode, hcode⟩ := decodeCell_encode s.smode (fetch s)
  subst h
  exact ⟨hmode.symm, hcode.symm⟩

end Sys2Proof.Machine
end

section
/-! The family 10_state: the frame of every instruction (rule R52), what each command does to `status`, `steps`, the
latch and the grid, and the machine's invariant. -/

namespace Sys2Proof.StateFamily

open Sys2Proof Sys2Proof.Machine

/-! ### The frame of an instruction's own writes -/

section
variable {s u : State} {i : Instr}

/-- No instruction writes these fields before it advances. -/
theorem effect_frame (h : Effect s i u) :
    u.cfg = s.cfg ∧ u.x = s.x ∧ u.y = s.y ∧ u.steps = s.steps ∧ u.status = s.status ∧ u.faultReason = s.faultReason ∧
      u.cancelPending = s.cancelPending ∧ u.script = s.script := by
  cases h <;> exact ⟨rfl, rfl, rfl, rfl, rfl, rfl, rfl, rfl⟩

/-- Only the turns and the branches write `dir`. -/
theorem effect_dir (h : Effect s i u)
    (hi : i ∉ [.goEast, .goWest, .goNorth, .goSouth, .goRandom, .ifHoriz, .ifVert]) : u.dir = s.dir := by
  cases h with
  | turn | draw | branch => simp_all
  | quote | nothing | pop | outChr | put | push => rfl

/-- The instructions whose rows name no write of the stack. -/
def KeepsStack (i : Instr) : Prop :=
  i ∈ [.goEast, .goWest, .goNorth, .goSouth, .goRandom, .strOn, .strOff, .bridge, .inInt, .inChr, .halt, .nop] ∨
    ∃ op, i = .nopOther op

/-- They are neither branches nor outputs nor `$` nor `p`, and they push nothing. -/
theorem KeepsStack.not_writes (h : KeepsStack i) :
    i ∉ [.ifHoriz, .ifVert, .drop, .outInt, .outChr, .put] ∧ pushes i = false := by
  rcases h with h | ⟨op, rfl⟩
  · revert i
    decide
  · exact ⟨by simp, rfl⟩

theorem effect_stack (h : Effect s i u) (hi : KeepsStack i) : u.stack = s.stack := by
  obtain ⟨hpop, hpush⟩ := hi.not_writes
  cases h with
  | turn | draw | quote | nothing => rfl
  | branch | pop | outChr | put | push => simp_all

theorem effect_grid (h : Effect s i u) (hi : i ≠ .put) : u.grid = s.grid := by
  cases h with
  | put => exact absurd rfl hi
  | turn | draw | branch | quote | nothing | pop | outChr | push => rfl

theorem effect_smode (h : Effect s i u) (hi : i ∉ [.strOn, .strOff]) : u.smode = s.smode := by
  cases h with
  | quote b hquote => exact absurd hquote hi
  | turn | draw | branch | nothing | pop | outChr | put | push => rfl

theorem effect_acc (h : Effect s i u) (hi : i ≠ .outChr) : u.acc = s.acc := by
  cases h with
  | outChr => exact absurd rfl hi
  | turn | draw | branch | quote | nothing | pop | put | push => rfl

theorem effect_draws (h : Effect s i u) (hi : i ≠ .goRandom) : u.draws = s.draws ∧ u.drawCount = s.drawCount := by
  cases h with
  | draw => exact absurd rfl hi
  | turn | branch | quote | nothing | pop | outChr | put | push => exact ⟨rfl, rfl⟩

theorem not_stops_of_pushes (hi : pushes i = true) : i ∉ [.inInt, .inChr, .halt] := by
  have hstops : ∀ j ∈ [Instr.inInt, .inChr, .halt], pushes j = false := by decide
  intro hmem
  simp [hstops i hmem] at hi

/-- `&`, `~` and `@` do not complete with an advance. -/
theorem effect_completes (h : Effect s i u) : i ∉ [.inInt, .inChr, .halt] := by
  cases h with
  | turn d hi | branch d hi | quote b hi | pop hi =>
    revert i
    decide
  | nothing hi =>
    rcases hi with hi | ⟨op, rfl⟩
    · revert i
      decide
    · simp
  | draw | outChr | put => decide
  | push l hi => exact not_stops_of_pushes hi

end

/-- Settles O22: each way of ending leaves the fields that the own writes leave, and adds the advance, the step count and
the status that it names. -/
theorem instructionsWriteOnlyWhatTheTableSays : Obligations.InstructionsWriteOnlyWhatTheTableSays := by
  intro i s t h
  cases executed_of_exec h with
  | completed x y e hu hx hy ht =>
    subst ht
    obtain ⟨hcfg, -, -, -, hstatus, hreason, hlatch, hscript⟩ := effect_frame hu
    have hdir := effect_dir hu
    have hstack := effect_stack hu
    have hgrid := effect_grid hu
    have hsmode := effect_smode hu
    have hacc := effect_acc hu
    have hdraws := effect_draws hu
    exact ⟨hcfg, hlatch, hscript, hdir, hstack, fun hi a => congrArg (Memory.read · a) (hgrid hi), hgrid, hsmode, hacc,
      hdraws, fun _ => .inl ⟨hstatus, hreason⟩, fun hi => absurd hi (effect_completes hu)⟩
  | faulted r hi hr ht =>
    subst ht
    exact ⟨rfl, rfl, rfl, fun _ => rfl, fun _ => rfl, fun _ _ => rfl, fun _ => rfl, fun _ => rfl, fun _ => rfl,
      fun _ => ⟨rfl, rfl⟩, fun _ => .inr ⟨r, rfl⟩, fun hstop => absurd hstop (not_stops_of_pushes hi)⟩
  | awaitsInt hi ht | awaitsChr hi ht | halted hi ht =>
    subst hi ht
    exact ⟨rfl, rfl, rfl, fun _ => rfl, fun _ => rfl, fun _ _ => rfl, fun _ => rfl, fun _ => rfl, fun _ => rfl,
      fun _ => ⟨rfl, rfl⟩, fun hi => absurd (by decide) hi, fun _ => ⟨rfl, rfl, rfl⟩⟩

/-! ### The sequencer's registers -/

/-- Where an instruction takes `status`: the three that stop say where; any other leaves it alone or faults. -/
theorem executed_status {i : Instr} {s t : State} (h : Executed s i t) :
    if i = .inInt then t.status = .awaitInt
    else if i = .inChr then t.status = .awaitChr
    else if i = .halt then t.status = .halted
    else t.status = s.status ∨ (t.status = .faulted ∧ ¬ Unbounded s.cfg) := by
  cases h with
  | completed x y e hu hx hy ht =>
    obtain ⟨-, -, -, -, hstatus, -⟩ := effect_frame hu
    obtain ⟨hint, hchr, hhalt⟩ : i ≠ .inInt ∧ i ≠ .inChr ∧ i ≠ .halt := by simpa using effect_completes hu
    rw [if_neg hint, if_neg hchr, if_neg hhalt, ht]
    exact .inl hstatus
  | faulted r hi hr ht =>
    obtain ⟨hint, hchr, hhalt⟩ : i ≠ .inInt ∧ i ≠ .inChr ∧ i ≠ .halt := by simpa using not_stops_of_pushes hi
    rw [if_neg hint, if_neg hchr, if_neg hhalt, ht]
    exact .inr ⟨rfl, hr.not_unbounded⟩
  | awaitsInt hi ht | awaitsChr hi ht | halted hi ht => subst hi ht; rfl

/-- Settles O18, command by command. -/
theorem statusFollowsTheTransitionTable : Obligations.StatusFollowsTheTransitionTable := by
  intro c s t h
  cases c with
  | reset image => rw [(resetCommand_cases h).2]; rfl
  | cancelReq => cases h; rfl
  | resume line =>
    simp only [← Status.waiting_iff]
    rcases resumeCommand_cases h with ⟨hw, rfl⟩ | ⟨hw, ⟨l, e, -, rfl⟩ | ⟨r, hr, rfl⟩⟩
    · rw [if_neg (by simp [hw])]; rfl
    · rw [if_pos hw]; exact .inl rfl
    · rw [if_pos hw]; exact .inr ⟨rfl, hr.not_unbounded⟩
  | step =>
    dsimp only
    rcases stepCommand_cases h with ⟨hrun, rfl⟩ | ⟨hrun, hc, rfl⟩ | ⟨hrun, hc, hx⟩
    · rw [if_neg hrun]; rfl
    · rw [if_pos hrun, if_pos hc]; rfl
    · rw [if_pos hrun, if_neg (by simp [hc])]
      have hstatus := executed_status hx
      rw [hrun] at hstatus
      exact hstatus

/-- An instruction counts a step exactly when it leaves the status alone or halts. -/
theorem executed_steps {i : Instr} {s t : State} (hrun : s.status = .running) (h : Executed s i t) :
    t.steps = if t.status = .running ∨ t.status = .halted then s.steps + 1 else s.steps := by
  cases h with
  | completed x y e hu hx hy ht =>
    obtain ⟨-, -, -, hsteps, hstatus, -⟩ := effect_frame hu
    subst ht
    simp [hsteps, hstatus, hrun]
  | faulted r hi hr ht | awaitsInt hi ht | awaitsChr hi ht | halted hi ht => subst ht; rfl

/-- Settles O19, command by command. -/
theorem stepsCountCompletedInstructions : Obligations.StepsCountCompletedInstructions := by
  intro c s t h
  cases c with
  | reset image => rw [(resetCommand_cases h).2]; rfl
  | cancelReq => cases h; rfl
  | resume line =>
    dsimp only
    rcases resumeCommand_cases h with ⟨hw, rfl⟩ | ⟨hw, ⟨l, e, -, rfl⟩ | ⟨r, -, rfl⟩⟩
    · rw [if_neg (by simp [hw])]; rfl
    · rw [if_pos ⟨hw, rfl⟩]; rfl
    · rw [if_neg (fun hf => nomatch hf.2)]; rfl
  | step =>
    dsimp only
    rcases stepCommand_cases h with ⟨hrun, rfl⟩ | ⟨hrun, -, rfl⟩ | ⟨hrun, -, hx⟩
    · rw [if_neg (fun hf => hrun hf.1)]; rfl
    · rw [if_neg (fun hf => by rcases hf.2 with hf | hf <;> cases hf)]; rfl
    · simpa only [hrun, true_and] using executed_steps hrun hx

theorem executed_cancelPending {i : Instr} {s t : State} (h : Executed s i t) : t.cancelPending = s.cancelPending := by
  cases h with
  | completed x y e hu hx hy ht =>
    obtain ⟨-, -, -, -, -, -, hlatch, -⟩ := effect_frame hu
    exact ht ▸ hlatch
  | faulted r hi hr ht | awaitsInt hi ht | awaitsChr hi ht | halted hi ht => subst ht; rfl

/-- Settles O20, command by command. -/
theorem onlyResetClearsTheCancelLatch : Obligations.OnlyResetClearsTheCancelLatch := by
  intro c s t h
  cases c with
  | reset image => rw [(resetCommand_cases h).2]; rfl
  | cancelReq => cases h; rfl
  | resume line =>
    rcases resumeCommand_cases h with ⟨-, rfl⟩ | ⟨-, ⟨l, e, -, rfl⟩ | ⟨r, -, rfl⟩⟩ <;> rfl
  | step =>
    rcases stepCommand_cases h with ⟨-, rfl⟩ | ⟨-, -, rfl⟩ | ⟨-, -, hx⟩
    · rfl
    · rfl
    · exact executed_cancelPending hx

/-! ### The grid -/

theorem executed_grid {i : Instr} {s t : State} (h : Executed s i t) (hi : i ≠ .put) : t.grid = s.grid := by
  cases h with
  | completed x y e hu hx hy ht =>
    have hgrid := effect_grid hu hi
    exact ht ▸ hgrid
  | faulted r hi hr ht | awaitsInt hi ht | awaitsChr hi ht | halted hi ht => subst ht; rfl

/-- Settles O21: of the commands only `RESET` and an executed instruction write the grid, of the instructions only `p`,
and only the cell 0x70 decodes to it. -/
theorem onlyPutWritesTheGrid : Obligations.OnlyPutWritesTheGrid := by
  intro c s t h hgrid
  cases c with
  | reset image => exact .inl ⟨image, rfl⟩
  | cancelReq => cases h; exact absurd rfl hgrid
  | resume line =>
    rcases resumeCommand_cases h with ⟨-, rfl⟩ | ⟨-, ⟨l, e, -, rfl⟩ | ⟨r, -, rfl⟩⟩ <;> exact absurd rfl hgrid
  | step =>
    rcases stepCommand_cases h with ⟨-, rfl⟩ | ⟨-, -, rfl⟩ | ⟨hrun, hc, hx⟩
    · exact absurd rfl hgrid
    · exact absurd rfl hgrid
    · have hput : currentInstr s = .put := by
        by_contra hi
        exact hgrid (executed_grid hx hi)
      obtain ⟨hmode, hfetch⟩ := smode_and_fetch_of_currentInstr hput
      exact .inr ⟨rfl, hrun, hc, hmode, hfetch⟩

/-! ### The codes of the taps -/

/-- Settles O11: by the values of the enumerations and of the 2-bit codes. -/
theorem tapCodesFollowTheTables : Obligations.TapCodesFollowTheTables := by
  refine ⟨fun d => ?_, by decide, by decide, by decide, by decide, by decide, by decide, by decide⟩
  cases d <;> rfl

/-! ### The invariant -/

/-- The part of the invariant that speaks of the data: the grid, the stack and the accumulator. -/
structure DataFits (s : State) : Prop where
  grid_wf : s.grid.wf s.cfg.ncells = true
  stack_fits : StackFits s.cfg s.stack
  acc_fits : ValuesFit s.cfg s.acc

theorem dataFits_of_inv {s : State} (h : Inv s) : DataFits s :=
  ⟨h.grid_wf, ⟨h.depth_le, h.stack_fits⟩, h.acc_fits⟩

theorem effect_dataFits {i : Instr} {s u : State} (h : Effect s i u) (hs : DataFits s) : DataFits u := by
  obtain ⟨hgrid, hstack, hacc⟩ := hs
  cases h with
  | turn | draw | quote | nothing => exact ⟨hgrid, hstack, hacc⟩
  | branch | pop => exact ⟨hgrid, hstack.drop 1, hacc⟩
  | outChr => exact ⟨hgrid, hstack.drop 1, hacc.append_nth 0 hstack⟩
  | put i j v => exact ⟨Memory.wf_write _ (cellAddr_lt _ i j) hgrid, hstack.drop 3, hacc⟩
  | push l hi hl => exact ⟨hgrid, hl hstack, hacc⟩

/-- In RUNNING the invariant is a matter of the position and the data alone. -/
theorem inv_of_running {s : State} (hrun : s.status = .running) (hreason : s.faultReason = none)
    (hx : s.x < s.cfg.width) (hy : s.y < s.cfg.height) (hdata : DataFits s) : Inv s where
  x_lt := hx
  y_lt := hy
  grid_wf := hdata.grid_wf
  depth_le := hdata.stack_fits.1
  stack_fits := hdata.stack_fits.2
  acc_fits := hdata.acc_fits
  fault_iff := by simp [hrun, hreason]
  value_fault := by simp [hreason]
  stack_fault := by simp [hreason]
  on_inInt := by simp [hrun]
  on_inChr := by simp [hrun]
  on_halt := by simp [hrun]
  interrupted_by := by simp [hrun]

theorem faultReason_eq_none {s : State} (h : Inv s) (hs : s.status ≠ .faulted) : s.faultReason = none := by
  by_contra hr
  exact hs (h.fault_iff.2 hr)

/-- The position on the grid after an advance, as `State.completed` writes it. -/
theorem movedOn_lt {m : Nat} (hm : 0 < m) (p : Nat) (d : Int) : movedOn m p d < m :=
  toNat_emod_lt _ hm

/-- The invariant does not read the host's script. -/
theorem inv_with_script {s : State} (h : Inv s) (rest : List HostAction) : Inv { s with script := rest } :=
  { h with }

/-- Nor the event and the trace, which are all that an ignored command writes (rule R106). -/
theorem inv_reporting {s : State} (h : Inv s) (e : Event) : Inv (s.reporting e) :=
  { h with }

/-- A request sets the latch, which INTERRUPTED wants set (rule R44). -/
theorem inv_cancelRequest {s : State} (h : Inv s) : Inv { s with cancelPending := true } :=
  { h with interrupted_by := fun _ => rfl }

/-- A fault changes `status` and `fault_reason` together (rule R218). -/
theorem inv_faultedBy {s : State} (h : Inv s) {r : FaultReason} (hr : MayFault s.cfg r) : Inv (s.faultedBy r) :=
  { h with
    fault_iff := by simp [State.faultedBy]
    value_fault := fun e => hr.2 (Option.some.inj e)
    stack_fault := fun e => hr.1 (Option.some.inj e)
    on_inInt := nofun
    on_inChr := nofun
    on_halt := nofun
    interrupted_by := nofun }

/-- A running machine may stop without a fault where the invariant allows that status. -/
theorem inv_stopped {s : State} (h : Inv s) (hrun : s.status = .running) {st : Status} (n : Nat) (e : Event)
    (hfault : st ≠ .faulted)
    (hint : st = .awaitInt → s.smode = false ∧ fetch s = 0x26)
    (hchr : st = .awaitChr → s.smode = false ∧ fetch s = 0x7E)
    (hhalt : st = .halted → s.smode = false ∧ fetch s = 0x40)
    (hlatch : st = .interrupted → s.cancelPending = true) :
    Inv (State.reporting { s with status := st, steps := n } e) :=
  have hreason : s.faultReason = none := faultReason_eq_none h (by simp [hrun])
  { h with
    fault_iff := by simp [State.reporting, hfault, hreason]
    on_inInt := hint
    on_inChr := hchr
    on_halt := hhalt
    interrupted_by := hlatch }

theorem inv_resetState (s : State) {image : List Code} (h : image.length ≤ s.cfg.ncells) :
    Inv (resetState image s) :=
  inv_of_running rfl rfl (Config_width_pos s.cfg) (Config_height_pos s.cfg)
    ⟨Memory.wf_ofImage image h, .nil s.cfg, (StackFits.nil s.cfg).2⟩

/-- Settles O58: the reset state is that of the empty image. -/
theorem theResetStateMeetsTheInvariant : Obligations.TheResetStateMeetsTheInvariant :=
  inv_resetState State.reset (image := []) (Nat.zero_le _)

theorem inv_of_executed {s t : State} (hs : Inv s) (hrun : s.status = .running) (h : Executed s (currentInstr s) t) :
    Inv t ∧ t.cfg = s.cfg := by
  cases h with
  | completed x y e hu hx hy ht =>
    have hreason : s.faultReason = none := faultReason_eq_none hs (by simp [hrun])
    obtain ⟨hcfg, -, -, -, hstatus, hreason', -⟩ := effect_frame hu
    obtain ⟨hgrid, hstack, hacc⟩ := effect_dataFits hu (dataFits_of_inv hs)
    subst ht
    exact ⟨inv_of_running (hstatus.trans hrun) (hreason'.trans hreason) hx hy ⟨hgrid, hstack, hacc⟩, hcfg⟩
  | faulted r hi hr ht => subst ht; exact ⟨inv_faultedBy hs hr, rfl⟩
  | awaitsInt hi ht =>
    subst ht
    exact ⟨inv_stopped hs hrun s.steps _ nofun (fun _ => smode_and_fetch_of_currentInstr hi) nofun nofun nofun, rfl⟩
  | awaitsChr hi ht =>
    subst ht
    exact ⟨inv_stopped hs hrun s.steps _ nofun nofun (fun _ => smode_and_fetch_of_currentInstr hi) nofun nofun, rfl⟩
  | halted hi ht =>
    subst ht
    exact ⟨inv_stopped hs hrun _ _ nofun nofun nofun (fun _ => smode_and_fetch_of_currentInstr hi) nofun, rfl⟩

theorem inv_of_stepCommand {s t : State} (hs : Inv s) (h : stepCommand s = .next t) : Inv t ∧ t.cfg = s.cfg := by
  rcases stepCommand_cases h with ⟨-, rfl⟩ | ⟨hrun, hc, rfl⟩ | ⟨hrun, -, hx⟩
  · exact ⟨inv_reporting hs _, rfl⟩
  · exact ⟨inv_stopped hs hrun s.steps _ nofun nofun nofun nofun fun _ => hc, rfl⟩
  · exact inv_of_executed hs hrun hx

theorem inv_of_resumeCommand {s t : State} {line : List Nat} (hs : Inv s) (h : resumeCommand line s = .next t) :
    Inv t ∧ t.cfg = s.cfg := by
  rcases resumeCommand_cases h with ⟨-, rfl⟩ | ⟨hw, ⟨l, e, hl, rfl⟩ | ⟨r, hr, rfl⟩⟩
  · exact ⟨inv_reporting hs _, rfl⟩
  · have hreason : s.faultReason = none := faultReason_eq_none hs fun hf => by simp [hf, Status.waiting] at hw
    obtain ⟨hgrid, hstack, hacc⟩ := dataFits_of_inv hs
    have hx := movedOn_lt (Config_width_pos s.cfg) s.x (dx s.dir)
    have hy := movedOn_lt (Config_height_pos s.cfg) s.y (dy s.dir)
    exact ⟨inv_of_running rfl hreason hx hy ⟨hgrid, hl hstack, hacc⟩, rfl⟩
  · exact ⟨inv_faultedBy hs hr, rfl⟩

theorem inv_of_command {c : HostAction} {s t : State} (hs : Inv s) (h : command c s = .next t) :
    Inv t ∧ t.cfg = s.cfg := by
  cases c with
  | reset image =>
    obtain ⟨hlen, rfl⟩ := resetCommand_cases h
    exact ⟨inv_resetState s hlen.le, rfl⟩
  | step => exact inv_of_stepCommand hs h
  | resume line => exact inv_of_resumeCommand hs h
  | cancelReq =>
    cases h
    exact ⟨inv_cancelRequest hs, rfl⟩

/-- Settles O59: a step is a command, and every command keeps the invariant. -/
theorem everyStepKeepsTheInvariant : Obligations.EveryStepKeepsTheInvariant := by
  intro s t hs h
  obtain ⟨c, rest, hstep⟩ := step_eq_command s
  obtain ⟨hinv, hcfg⟩ := inv_of_command (inv_with_script hs rest) (hstep.symm.trans h)
  exact ⟨hinv, hcfg⟩

end Sys2Proof.StateFamily
end

section
/-! The family 20_memory: the wraps and the address encoder (rules R61 and R62), the grid as data (rules R60 to R66), the
advance without a divider (rule R67), and the fetch after a `p` (rule R76). -/

namespace Sys2Proof.MemoryFamily

open Sys2Proof Sys2Proof.Machine

/-! ### The wraps (rule R61) -/

theorem wrapX_cast (c : Config) (i : Int) : (wrapX c i : Int) = i % (c.width : Int) := by
  have hpos := Config_width_pos c
  rw [wrapX_eq, Int.toNat_of_nonneg (Int.emod_nonneg i (by omega))]

theorem wrapY_cast (c : Config) (j : Int) : (wrapY c j : Int) = j % (c.height : Int) := by
  have hpos := Config_height_pos c
  rw [wrapY_eq, Int.toNat_of_nonneg (Int.emod_nonneg j (by omega))]

/-- Settles O2: the floored remainder by a positive size is the non-negative residue. -/
theorem wrapIsTheNonNegativeResidue : Obligations.WrapIsTheNonNegativeResidue := fun c i j =>
  ⟨wrapX_cast c i, wrapX_lt c i, wrapY_cast c j, wrapY_lt c j⟩

/-! ### The address encoder (rule R62) -/

theorem cellAddr_div_width (c : Config) (i j : Int) : cellAddr c i j / c.width = wrapY c j := by
  rw [cellAddr, Nat.mul_comm, Nat.mul_add_div (Config_width_pos c), Nat.div_eq_of_lt (wrapX_lt c i), Nat.add_zero]

theorem cellAddr_mod_width (c : Config) (i j : Int) : cellAddr c i j % c.width = wrapX c i := by
  rw [cellAddr, Nat.mul_comm, Nat.mul_add_mod, Nat.mod_eq_of_lt (wrapX_lt c i)]

/-- An address determines the wrapped coordinates: its quotient and its remainder by `W`. -/
theorem cellAddr_eq_iff (c : Config) (i j i' j' : Int) :
    cellAddr c i j = cellAddr c i' j' ↔ wrapX c i = wrapX c i' ∧ wrapY c j = wrapY c j' := by
  constructor
  · intro h
    rw [← cellAddr_mod_width c i j, ← cellAddr_mod_width c i' j', ← cellAddr_div_width c i j,
      ← cellAddr_div_width c i' j', h]
    exact ⟨rfl, rfl⟩
  · rintro ⟨hx, hy⟩
    rw [cellAddr, cellAddr, hx, hy]

theorem cellAddr_of_lt (c : Config) {x y : Nat} (hx : x < c.width) (hy : y < c.height) :
    cellAddr c x y = y * c.width + x := by
  rw [cellAddr, wrapX_of_lt c hx, wrapY_of_lt c hy]

/-- Every address below `NCELLS` is that of the position with its remainder and its quotient by `W`. -/
theorem cellAddr_mod_div (c : Config) {k : Nat} (hk : k < c.ncells) :
    k % c.width < c.width ∧ k / c.width < c.height ∧ cellAddr c (k % c.width : Nat) (k / c.width : Nat) = k := by
  have hx : k % c.width < c.width := Nat.mod_lt k (Config_width_pos c)
  have hy : k / c.width < c.height := Nat.div_lt_of_lt_mul hk
  exact ⟨hx, hy, by rw [cellAddr_of_lt c hx hy, Nat.div_add_mod']⟩

/-- Settles O3: a position's coordinates are its address's remainder and quotient by `W`. -/
theorem cellAddressesNumberTheGrid : Obligations.CellAddressesNumberTheGrid := by
  intro c
  refine ⟨fun i j => ⟨rfl, cellAddr_lt c i j⟩, fun k hk => ?_⟩
  obtain ⟨hx, hy, haddr⟩ := cellAddr_mod_div c hk
  refine ⟨k % c.width, k / c.width, hx, hy, haddr, fun x' y' hx' hy' h' => ?_⟩
  obtain ⟨hxx, hyy⟩ := (cellAddr_eq_iff c _ _ _ _).1 (h'.trans haddr.symm)
  rw [wrapX_of_lt c hx', wrapX_of_lt c hx] at hxx
  rw [wrapY_of_lt c hy', wrapY_of_lt c hy] at hyy
  exact ⟨hxx, hyy⟩

/-! ### The grid as data (rules R60 to R66) -/

/-- Read after write, with the cells compared by their addresses (rules R65 and R66). -/
theorem gridRead_gridWrite {s : State} (hs : s.grid.wf s.cfg.ncells = true) (i j v i' j' : Int) :
    gridRead (gridWrite i j v s) i' j' =
      if cellAddr s.cfg i' j' = cellAddr s.cfg i j then BitVec.ofNat 8 (v % 256).toNat else gridRead s i' j' := by
  rw [gridRead, gridWrite_grid, gridWrite_cfg, Memory.read_write _ hs, toCode_residue]
  simp only [eq_comm (a := cellAddr s.cfg i j), gridRead]

/-- Settles O4: read after write by address, and an address is that of one pair of wrapped coordinates. -/
theorem gridWriteThenRead : Obligations.GridWriteThenRead := by
  intro s i j v i' j' hs
  rw [gridRead_gridWrite hs]
  simp only [cellAddr_eq_iff]

theorem wfFrom_cons {n lo k : Nat} {v : Code} {m : Memory} :
    Memory.wfFrom n lo ((k, v) :: m) = true ↔
      lo ≤ k ∧ k < n ∧ v ≠ Config.space ∧ Memory.wfFrom n (k + 1) m = true := by
  simp [Memory.wfFrom, and_assoc]

theorem read_head (k : Nat) (v : Code) (m : Memory) : Memory.read ((k, v) :: m) k = v := if_pos rfl

theorem read_tail {k a : Nat} (v : Code) (m : Memory) (h : k ≠ a) : Memory.read ((k, v) :: m) a = m.read a := if_neg h

/-- A listed cell holds no space, so contents that begin beyond it read otherwise somewhere: at that cell. -/
theorem exists_read_ne_of_head {n lo k : Nat} {v : Code} {g m : Memory} (hg : Memory.wfFrom n lo ((k, v) :: g) = true)
    (hm : Memory.wfFrom n (k + 1) m = true) : ∃ a, a < n ∧ Memory.read ((k, v) :: g) a ≠ m.read a := by
  obtain ⟨-, hk, hv, -⟩ := wfFrom_cons.1 hg
  refine ⟨k, hk, ?_⟩
  rw [read_head, Memory.read_of_lt hm (Nat.lt_succ_self k)]
  exact hv

/-- Contents in canonical form are determined by what they read as. -/
theorem eq_of_read_eq {n lo : Nat} {g h : Memory} (hg : Memory.wfFrom n lo g = true) (hh : Memory.wfFrom n lo h = true)
    (heq : ∀ a, a < n → g.read a = h.read a) : g = h := by
  induction g generalizing lo h with
  | nil =>
    cases h with
    | nil => rfl
    | cons e h =>
      obtain ⟨a, ha, hne⟩ := exists_read_ne_of_head (m := []) hh rfl
      exact absurd (heq a ha).symm hne
  | cons e g ih =>
    obtain ⟨k, v⟩ := e
    cases h with
    | nil =>
      obtain ⟨a, ha, hne⟩ := exists_read_ne_of_head (m := []) hg rfl
      exact absurd (heq a ha) hne
    | cons e h =>
      obtain ⟨l, w⟩ := e
      obtain ⟨-, hk, hv, hgt⟩ := wfFrom_cons.1 hg
      obtain ⟨-, hl, hw, hht⟩ := wfFrom_cons.1 hh
      rcases Nat.lt_trichotomy k l with hlt | rfl | hlt
      · obtain ⟨a, ha, hne⟩ := exists_read_ne_of_head hg (wfFrom_cons.2 ⟨hlt, hl, hw, hht⟩)
        exact absurd (heq a ha) hne
      · have hvw : v = w := by simpa only [read_head] using heq k hk
        have htail : ∀ a, a < n → Memory.read g a = Memory.read h a := by
          intro a ha
          rcases eq_or_ne k a with rfl | hne
          · rw [Memory.read_of_lt hgt (Nat.lt_succ_self k), Memory.read_of_lt hht (Nat.lt_succ_self k)]
          · simpa only [read_tail _ _ hne] using heq a ha
        rw [hvw, ih hgt hht htail]
      · obtain ⟨a, ha, hne⟩ := exists_read_ne_of_head hh (wfFrom_cons.2 ⟨hlt, hk, hv, hgt⟩)
        exact absurd (heq a ha).symm hne

/-- Settles O5, by induction on the first grid: the two grids begin with the same entry, since the earlier of two first
entries would be read in one grid only. -/
theorem equalReadsAreEqualGrids : Obligations.EqualReadsAreEqualGrids := fun _ _ _ hg hh heq => eq_of_read_eq hg hh heq

/-! ### The advance (rules R67 and R104) -/

theorem dx_cases (d : Dir) : dx d = 1 ∨ dx d = -1 ∨ dx d = 0 := by cases d <;> decide

theorem dy_cases (d : Dir) : dy d = 1 ∨ dy d = -1 ∨ dy d = 0 := by cases d <;> decide

/-- On one axis, a step of at most one cell from a position on the grid leaves the range at its two ends only. -/
theorem emod_add_unit {m p d : Int} (h0 : 0 ≤ p) (hm : p < m) (hd : d = 1 ∨ d = -1 ∨ d = 0) :
    (p + d) % m = if p = m - 1 ∧ d = 1 then 0 else if p = 0 ∧ d = -1 then m - 1 else p + d := by
  split
  · next hlast => rw [hlast.1, hlast.2, Int.sub_add_cancel, Int.emod_self]
  · next hlast =>
    split
    · next hfirst =>
      calc (p + d) % m = (p + d + m) % m := (Int.add_emod_right _ _).symm
        _ = p + d + m := Int.emod_eq_of_lt (by omega) (by omega)
        _ = m - 1 := by omega
    · next hfirst => exact Int.emod_eq_of_lt (by omega) (by omega)

/-- Settles O6: one lemma for both axes. -/
theorem advanceNeedsNoDivider : Obligations.AdvanceNeedsNoDivider := by
  intro s hx hy
  rw [advance_x, advance_y, wrapX_cast, wrapY_cast]
  exact ⟨emod_add_unit (by omega) (by omega) (dx_cases s.dir), emod_add_unit (by omega) (by omega) (dy_cases s.dir)⟩

/-! ### The fetch after a `p` (rules R73, R76 and R182) -/

/-- Everything `p` does (rule R182): three pops, the write, and one advance. -/
theorem exec_put_eq (s : State) :
    exec .put s = .next (State.completed (gridWrite (s.nth 0) (s.nth 1) (s.nth 2) { s with stack := s.stack.drop 3 })
      (.cellWritten (wrapX s.cfg (s.nth 0)) (wrapY s.cfg (s.nth 1)) (toCode s.cfg (s.nth 2)))) := by
  simp [exec, execPut, pop_eq, complete_one, State.nth]

/-- A running core with no cancellation pending executes the instruction under its pointer (rule R100). -/
theorem stepCommand_of_running {s : State} (hrun : s.status = .running) (hc : s.cancelPending = false) :
    stepCommand s = exec (decodeCell s.smode (gridRead s s.x s.y)) s := by
  simp [stepCommand, hrun, hc, currentInstr, fetch]

/-- The grid after a `p`, read at any coordinates (rules R65, R66 and R182). -/
theorem gridRead_of_put {s t : State} (hs : s.grid.wf s.cfg.ncells = true) (h : exec .put s = .next t) (i j : Int) :
    gridRead t i j =
      if addressOf s.cfg i j = addressOf s.cfg (s.nth 0) (s.nth 1) then BitVec.ofNat 8 (s.nth 2 % 256).toNat
      else gridRead s i j := by
  rw [exec_put_eq] at h
  cases h
  simp only [← cellAddr_eq]
  exact gridRead_gridWrite (s := { s with stack := s.stack.drop 3 }) hs _ _ _ i j

/-- What a `STEP` looks at besides the grid and the pointer, a `p` leaves as it was (rule R52). -/
theorem control_of_put {s t : State} (h : exec .put s = .next t) :
    t.status = s.status ∧ t.cancelPending = s.cancelPending ∧ t.smode = s.smode := by
  rw [exec_put_eq] at h
  cases h
  exact ⟨rfl, rfl, rfl⟩

/-- Settles O42: the next `STEP` decodes the cell under the pointer, read from the grid that `p` has left. -/
theorem theNextFetchSeesTheWrite : Obligations.TheNextFetchSeesTheWrite := by
  intro s t hs hrun hc h
  obtain ⟨hstatus, hcancel, hsmode⟩ := control_of_put h
  calc command .step t = exec (decodeCell t.smode (gridRead t t.x t.y)) t :=
        stepCommand_of_running (hstatus.trans hrun) (hcancel.trans hc)
    _ = _ := by rw [hsmode, gridRead_of_put hs h]

end Sys2Proof.MemoryFamily
end

section
/-! The family 30_encoding: the decoder against the encoder (rules R81 to R87), the unrecognised codes (rule R85), and
the string literal (rules R91 and R141). -/

namespace Sys2Proof.EncodingFamily

open Sys2Proof Sys2Proof.Machine

/-! ### The opcode map and the unrecognised codes (rules R82 and R85) -/

/-- No code stands in two rows of the map: the decoder finds the row that a code was taken from. -/
theorem decodeNormal_of_mem_opcodeRows : ∀ r ∈ opcodeRows, decodeNormal r.1 = r.2 := by
  decide

theorem wf_and_ne_nopOther_of_mem_opcodeRows : ∀ r ∈ opcodeRows, r.2.wf = true ∧ r.2 ≠ .nopOther r.1 := by
  decide

/-- Rule R85's ranges are what rule R82's table leaves. -/
theorem unrecognised_iff_not_listed (op : Code) : op.unrecognised = true ↔ ∀ r ∈ opcodeRows, r.1 ≠ op := by
  revert op
  decide

theorem decodeNormal_of_unrecognised {op : Code} (h : op.unrecognised = true) : decodeNormal op = .nopOther op := by
  have hnone : opcodeRows.find? (fun r => r.1 == op) = none :=
    List.find?_eq_none.2 fun r hr => by simpa using (unrecognised_iff_not_listed op).1 h r hr
  rw [decodeNormal, hnone]

/-- A code decodes by its row, or is one of rule R85's. -/
theorem decodeNormal_cases (op : Code) : (op, decodeNormal op) ∈ opcodeRows ∨ op.unrecognised = true := by
  by_cases h : op.unrecognised = true
  · exact .inr h
  · rw [unrecognised_iff_not_listed] at h
    push Not at h
    obtain ⟨r, hr, rfl⟩ := h
    rw [decodeNormal_of_mem_opcodeRows r hr]
    exact .inl hr

theorem decodeNormal_eq_nopOther_iff (op : Code) : decodeNormal op = .nopOther op ↔ op.unrecognised = true := by
  refine ⟨fun h => (decodeNormal_cases op).resolve_left fun hrow => ?_, decodeNormal_of_unrecognised⟩
  exact (wf_and_ne_nopOther_of_mem_opcodeRows _ hrow).2 h

/-- Settles O9: the decoder has no row for exactly the codes of the rule's ranges, and both no-ops are `COMPLETE(1)`. -/
theorem unrecognisedCodesAreNoOps : Obligations.UnrecognisedCodesAreNoOps := by
  refine ⟨fun op => ?_, ?_, fun op s => rfl⟩
  · rw [decodeCell, decodeNormal_eq_nopOther_iff]
    simp [Code.unrecognised, or_assoc]
  · simp only [decodeCell, decodeNormal_eq_nopOther_iff]
    rfl

/-! ### The round trips (rules R81, R86 and R87) -/

/-- Every instruction of `smode = 0` but the unrecognised no-op has its row in the map. -/
theorem mem_opcodeRows_of_normal {i : Instr} (hmode : i.stringMode = false) (hi : ∀ op, i ≠ .nopOther op) :
    (encode i, i) ∈ opcodeRows := by
  cases i with
  | strPush op => cases hmode
  | strOff => cases hmode
  | nopOther op => exact absurd rfl (hi op)
  | _ => decide

theorem decodeNormal_encode {i : Instr} (hwf : i.wf = true) (hmode : i.stringMode = false) :
    decodeNormal (encode i) = i := by
  by_cases h : ∃ op, i = .nopOther op
  · obtain ⟨op, rfl⟩ := h
    exact decodeNormal_of_unrecognised hwf
  · exact decodeNormal_of_mem_opcodeRows _ (mem_opcodeRows_of_normal hmode fun op hop => h ⟨op, hop⟩)

theorem decodeString_of_ne_quote {op : Code} (h : op ≠ 0x22) : decodeString op = .strPush op := if_neg h

theorem decodeString_encode {i : Instr} (hwf : i.wf = true) (hmode : i.stringMode = true) :
    decodeString (encode i) = i := by
  cases i with
  | strPush op => exact decodeString_of_ne_quote (bne_iff_ne.1 hwf)
  | strOff => rfl
  | _ => cases hmode

/-- Settles O7: an instruction of `smode = 0` is found in its row of the map or is an unrecognised code, and one of
`smode = 1` is the quote or data. -/
theorem decodeOfEncodeIsTheInstruction : Obligations.DecodeOfEncodeIsTheInstruction := by
  intro i rest hwf
  have hcell : decodeCell i.stringMode (encode i) = i := by
    cases hmode : i.stringMode with
    | true => exact decodeString_encode hwf hmode
    | false => exact decodeNormal_encode hwf hmode
  rw [decode, hcell]

theorem decodeCell_wf (smode : Bool) (op : Code) : (decodeCell smode op).wf = true := by
  cases smode with
  | true =>
    by_cases hq : op = 0x22
    · rw [hq]; rfl
    · rw [decodeCell, decodeString_of_ne_quote hq]
      exact bne_iff_ne.2 hq
  | false =>
    rw [decodeCell]
    rcases decodeNormal_cases op with hrow | hun
    · exact (wf_and_ne_nopOther_of_mem_opcodeRows _ hrow).1
    · rw [decodeNormal_of_unrecognised hun]
      exact hun

/-- Settles O8: decoding loses neither the mode nor the cell, and gives a well-formed instruction. -/
theorem everyCellIsOneInstruction : Obligations.EveryCellIsOneInstruction :=
  fun smode op => ⟨decodeCell_wf smode op, decodeCell_encode smode op⟩

/-- Settles O10: the map evaluated at the twelve codes. -/
theorem sampleCellsDecode : Obligations.SampleCellsDecode := by
  unfold Obligations.SampleCellsDecode
  decide

/-! ### The string literal (rules R91 and R141) -/

/-- The core is inside a string literal, with a `STEP` next and every push accepted. -/
structure InLiteral (s : State) : Prop where
  unbounded : Unbounded s.cfg
  running : s.status = .running
  noCancel : s.cancelPending = false
  smode : s.smode = true
  noScript : s.script = []

/-- The next state of rule R141 for the code `op`. -/
def pushCode (op : Code) (s : State) : State :=
  State.completed { s with stack := (op.toNat : Int) :: s.stack } (.stackPushed op.toNat)

@[simp] theorem pushCode_stack (op : Code) (s : State) : (pushCode op s).stack = (op.toNat : Int) :: s.stack := rfl
@[simp] theorem pushCode_steps (op : Code) (s : State) : (pushCode op s).steps = s.steps + 1 := rfl

/-- Pushing a code stays inside the literal. -/
theorem InLiteral.pushCode {s : State} (h : InLiteral s) (op : Code) : InLiteral (pushCode op s) :=
  ⟨h.unbounded, h.running, h.noCancel, h.smode, h.noScript⟩

theorem accepts_of_unbounded {c : Config} (h : Unbounded c) (depth : Nat) (v : Int) : Accepts c depth v :=
  ⟨by simp [h.2], by simp [h.1]⟩

/-- A step onto a code other than the quote pushes it (rules R100 and R141). -/
theorem step_in_literal {s : State} (h : InLiteral s) {op : Code} (hop : gridRead s s.x s.y = op) (hq : op ≠ 0x22) :
    step s = .next (pushCode op s) :=
  calc step s = stepCommand s := by rw [step, runScript, h.noScript]; rfl
    _ = exec (.strPush op) s := by
      rw [MemoryFamily.stepCommand_of_running h.running h.noCancel, h.smode, hop, decodeCell,
        decodeString_of_ne_quote hq]
    _ = .next (pushCode op s) := pushResult_of_accepts s (accepts_of_unbounded h.unbounded _ _)

theorem run_succ_of_step {s u : State} (n : Nat) (h : step s = .next u) :
    Host.Core.run Sys2Proof.core (n + 1) s = Host.Core.run Sys2Proof.core n u := by
  simp only [Host.Core.run, Sys2Proof.core, h]

/-- `k` cells beyond the next position is `k + 1` cells beyond this one, over the edge or not (rules R61 and R104). -/
theorem movedOn_add_emod {m : Nat} (hm : 0 < m) (p k : Nat) (d : Int) :
    ((movedOn m p d : Int) + k * d) % m = (p + (k + 1 : Nat) * d) % m := by
  rw [movedOn, Int.toNat_of_nonneg (Int.emod_nonneg _ (by omega)), Int.emod_add_emod]
  congr 1
  push_cast
  ring

/-- The cells ahead after a push are those that were ahead before it, but the first. -/
theorem gridRead_pushCode (op : Code) (s : State) (k : Nat) :
    gridRead (pushCode op s) ((pushCode op s).x + k * dx s.dir) ((pushCode op s).y + k * dy s.dir) =
      gridRead s (s.x + (k + 1 : Nat) * dx s.dir) (s.y + (k + 1 : Nat) * dy s.dir) := by
  simp only [pushCode, State.completed, gridRead, cellAddr_eq, addressOf, movedOn_add_emod (Config_width_pos _),
    movedOn_add_emod (Config_height_pos _)]

/-- Settles O31, by induction on the cells crossed: one step pushes the first code and leaves the core inside the
literal with the rest ahead. -/
theorem stringLiteralsPushInOrder : Obligations.StringLiteralsPushInOrder := by
  intro codes s hbuild hrun hcancel hsmode hscript hquote hcells
  have hs : InLiteral s := ⟨hbuild, hrun, hcancel, hsmode, hscript⟩
  clear hbuild hrun hcancel hsmode hscript
  induction codes generalizing s with
  | nil => exact ⟨s, rfl, rfl, hs.smode, hs.running, rfl, rfl, rfl, rfl⟩
  | cons op codes ih =>
    obtain ⟨hop, hrest⟩ := not_or.1 (mt List.mem_cons.2 hquote)
    have hfirst : gridRead s s.x s.y = op := by simpa using hcells 0 (Nat.succ_pos _)
    have hahead := fun k hk => (gridRead_pushCode op s k).trans (hcells (k + 1) (Nat.succ_lt_succ hk))
    obtain ⟨t, hrun, hstack, hsmode, hstatus, hdir, hgrid, hacc, hsteps⟩ := ih _ hrest hahead (hs.pushCode op)
    have hstep := run_succ_of_step codes.length (step_in_literal hs hfirst (Ne.symm hop))
    refine ⟨t, hstep.trans hrun, ?_, hsmode, hstatus, hdir, hgrid, hacc, ?_⟩
    · simp [hstack]
    · rw [hsteps, pushCode_steps, List.length_cons, Nat.add_right_comm, Nat.add_assoc]

end Sys2Proof.EncodingFamily
end

section
/-! The family 40_sequencer: what a `STEP` runs (rules R100, R101 and R103), the commands that a status does not take
(rule R106), the no-ops (rule R107), the one event of every command (rule R105), and the end of a run (rule R108). -/

namespace Sys2Proof.SequencerFamily

open Sys2Proof Sys2Proof.Machine

/-! ### The commands a status does not take (rule R106) -/

theorem stepCommand_of_not_running {s : State} (h : s.status ≠ .running) :
    stepCommand s = .next (s.reporting .none) := by
  cases hs : s.status with
  | running => exact absurd hs h
  | awaitInt | awaitChr | halted | interrupted | faulted => rw [stepCommand, hs]; rfl

theorem resumeCommand_of_not_waiting {s : State} (line : List Nat) (hint : s.status ≠ .awaitInt)
    (hchr : s.status ≠ .awaitChr) : resumeCommand line s = .next (s.reporting .none) := by
  cases hs : s.status with
  | awaitInt => exact absurd hs hint
  | awaitChr => exact absurd hs hchr
  | running | halted | interrupted | faulted => rw [resumeCommand, hs]; rfl

/-- Settles O15: status by status. -/
theorem commandsOutOfTurnAreIgnored : Obligations.CommandsOutOfTurnAreIgnored :=
  fun _ line => ⟨stepCommand_of_not_running, resumeCommand_of_not_waiting line⟩

/-! ### What a `STEP` in RUNNING does (rules R100, R101 and R103) -/

theorem stepCommand_of_cancelPending {s : State} (hrun : s.status = .running) (hc : s.cancelPending = true) :
    stepCommand s = .next (State.reporting { s with status := .interrupted } .interrupted) := by
  rw [stepCommand, hrun]
  exact if_pos hc

/-- Settles O14: the pending request is looked at before the fetch. -/
theorem pendingCancellationWins : Obligations.PendingCancellationWins :=
  fun _ hrun hc => ⟨_, stepCommand_of_cancelPending hrun hc, rfl, rfl⟩

/-- With an empty script the host issues `STEP` (log 3). -/
theorem step_of_script_nil {s : State} (h : s.script = []) : step s = stepCommand s := by
  rw [step, runScript, h]; rfl

theorem step_of_script_cons {s : State} {c : HostAction} {rest : List HostAction} (h : s.script = c :: rest) :
    step s = command c { s with script := rest } := by
  rw [step, runScript, h]

/-- The round trip of rule R86 for the cell alone. -/
theorem decodeCell_of_encode {i : Instr} (hwf : i.wf = true) : decodeCell i.stringMode (encode i) = i := by
  have hdecode := EncodingFamily.decodeOfEncodeIsTheInstruction i [] hwf
  simpa [decode] using hdecode

/-- Settles O12: an empty script and a `STEP` at the head both issue the command, which decodes the cell under the
pointer; over an encoded instruction the round trip gives it back. -/
theorem aStepRunsTheDecodedInstruction : Obligations.AStepRunsTheDecodedInstruction := by
  intro s hrun hc
  have hstep := MemoryFamily.stepCommand_of_running hrun hc
  refine ⟨fun hnil => (step_of_script_nil hnil).trans hstep, fun rest hcons => ?_, fun i hwf hmode hcell => ?_⟩
  · rw [step_of_script_cons hcons]
    exact MemoryFamily.stepCommand_of_running (s := { s with script := rest }) hrun hc
  · calc command .step s = exec (decodeCell s.smode (gridRead s s.x s.y)) s := hstep
      _ = exec i s := by rw [← hmode, hcell, decodeCell_of_encode hwf]

/-- The fetch after `withFetchWord` reads the table word's cell (rules R63 and R103). -/
theorem gridRead_withFetchWord {s : State} (hgrid : s.grid.wf s.cfg.ncells = true) (nbits w : Nat) :
    gridRead (s.withFetchWord nbits w) s.x s.y = tableCell nbits w :=
  (Memory.read_write _ hgrid _).trans (if_pos rfl)

/-- Settles O13: the `STEP` that `withFetchWord` puts at the head of the script decodes the cell just written, with the
mode in which `decodeTableWord` reads it. -/
theorem aPlacedWordIsRunNext : Obligations.APlacedWordIsRunNext := by
  intro s nbits w hgrid _ _
  refine ⟨decodeCell false (tableCell nbits w), rfl, ?_⟩
  calc step (s.withFetchWord nbits w) = stepCommand { s.withFetchWord nbits w with script := s.script } :=
        step_of_script_cons (c := .step) rfl
    _ = exec (decodeCell false (gridRead (s.withFetchWord nbits w) s.x s.y))
          { s.withFetchWord nbits w with script := s.script } := MemoryFamily.stepCommand_of_running rfl rfl
    _ = _ := by rw [gridRead_withFetchWord hgrid, State.withFetchWord, cellAddr_eq, tableCell]

/-- Settles O16: both no-ops are `COMPLETE(1)`. -/
theorem noOpsOnlyAdvance : Obligations.NoOpsOnlyAdvance :=
  fun s _ => ⟨complete_one .none s, complete_one .none s⟩

/-! ### The one event of every command (rule R105) -/

/-- `t` is left with exactly one event more than `s` had, the one on the event output. -/
def DrivesOneEvent (s t : State) : Prop := t.trace = s.trace ++ [t.event]

/-- A status other than RUNNING and FAULTED stands beside the event that rule R105 names for it. -/
def EventNamesStatus (t : State) : Prop :=
  (t.status = .awaitInt → t.event = .inputRequested .integer) ∧
  (t.status = .awaitChr → t.event = .inputRequested .character) ∧
  (t.status = .halted → t.event = .halted) ∧
  (t.status = .interrupted → t.event = .interrupted)

theorem eventNamesStatus_of_running {t : State} (h : t.status = .running) : EventNamesStatus t := by
  simp [EventNamesStatus, h]

/-- An instruction's own writes drive no event. -/
theorem effect_trace {i : Instr} {s u : State} (h : Effect s i u) : u.trace = s.trace := by
  cases h <;> rfl

theorem executed_drivesOneEvent {i : Instr} {s t : State} (h : Executed s i t) : DrivesOneEvent s t := by
  cases h with
  | completed x y e hu hx hy ht =>
    subst ht
    have htrace := effect_trace hu
    exact congrArg (· ++ [e]) htrace
  | faulted r hi hr ht | awaitsInt hi ht | awaitsChr hi ht | halted hi ht => subst ht; rfl

theorem executed_eventNamesStatus {i : Instr} {s t : State} (hrun : s.status = .running) (h : Executed s i t) :
    EventNamesStatus t := by
  cases h with
  | completed x y e hu hx hy ht =>
    obtain ⟨-, -, -, -, hstatus, -⟩ := StateFamily.effect_frame hu
    subst ht
    exact eventNamesStatus_of_running (hstatus.trans hrun)
  | faulted r hi hr ht | awaitsInt hi ht | awaitsChr hi ht | halted hi ht =>
    subst ht
    simp [EventNamesStatus, State.faultedBy, State.reporting]

theorem resumeCommand_drivesOneEvent {s t : State} {line : List Nat} (h : resumeCommand line s = .next t) :
    DrivesOneEvent s t := by
  rcases resumeCommand_cases h with ⟨-, rfl⟩ | ⟨-, ⟨l, e, -, rfl⟩ | ⟨r, -, rfl⟩⟩ <;> rfl

theorem stepCommand_drivesOneEvent {s t : State} (h : stepCommand s = .next t) : DrivesOneEvent s t := by
  rcases stepCommand_cases h with ⟨-, rfl⟩ | ⟨-, -, rfl⟩ | ⟨-, -, hx⟩
  · rfl
  · rfl
  · exact executed_drivesOneEvent hx

theorem stepCommand_eventNamesStatus {s t : State} (hrun : s.status = .running) (h : stepCommand s = .next t) :
    EventNamesStatus t := by
  rcases stepCommand_cases h with ⟨hnot, -⟩ | ⟨-, -, rfl⟩ | ⟨-, -, hx⟩
  · exact absurd hrun hnot
  · simp [EventNamesStatus, State.reporting]
  · exact executed_eventNamesStatus hrun hx

/-- Settles O17, command by command. -/
theorem everyCommandDrivesOneEvent : Obligations.EveryCommandDrivesOneEvent :=
  fun _ _ => ⟨fun _ h => resumeCommand_drivesOneEvent h,
    fun h => ⟨stepCommand_drivesOneEvent h, fun hrun => stepCommand_eventNamesStatus hrun h⟩⟩

/-! ### The end of a run (rule R108) -/

/-- The host has listed no `RESET`. -/
def NoReset (script : List HostAction) : Prop := ∀ c ∈ script, ∀ image, c ≠ .reset image

theorem sameButLatch_refl (s : State) : SameButLatch s s :=
  ⟨rfl, rfl, rfl, rfl, rfl, rfl, rfl, rfl, rfl, rfl⟩

theorem sameButLatch_trans {s t u : State} (hst : SameButLatch s t) (htu : SameButLatch t u) : SameButLatch s u := by
  simp_all [SameButLatch]

theorem status_of_sameButLatch {s t : State} (h : SameButLatch s t) : t.status = s.status := by
  obtain ⟨-, -, -, -, -, -, -, -, hstatus, -⟩ := h
  exact hstatus

/-- No command but `RESET` is taken in a terminal status. -/
theorem not_running_nor_waiting_of_terminal {st : Status} (h : st.terminal = true) :
    st ≠ .running ∧ st ≠ .awaitInt ∧ st ≠ .awaitChr := by
  cases st with
  | running | awaitInt | awaitChr => cases h
  | halted | interrupted | faulted => decide

/-- After the end of a run an action other than `RESET` drives NONE or sets the latch. -/
theorem command_of_terminal {c : HostAction} {s : State} (hs : s.status.terminal = true)
    (hc : ∀ image, c ≠ .reset image) :
    ∃ t, command c s = .next t ∧ SameButLatch s t ∧ t.script = s.script := by
  obtain ⟨hrun, hint, hchr⟩ := not_running_nor_waiting_of_terminal hs
  cases c with
  | reset image => exact absurd rfl (hc image)
  | step => exact ⟨_, stepCommand_of_not_running hrun, sameButLatch_refl s, rfl⟩
  | resume line => exact ⟨_, resumeCommand_of_not_waiting line hint hchr, sameButLatch_refl s, rfl⟩
  | cancelReq => exact ⟨_, rfl, sameButLatch_refl s, rfl⟩

theorem step_of_terminal {s : State} (hs : s.status.terminal = true) (hscript : NoReset s.script) :
    ∃ t, step s = .next t ∧ SameButLatch s t ∧ NoReset t.script := by
  cases hl : s.script with
  | nil =>
    obtain ⟨t, ht, hsame, hrest⟩ := command_of_terminal (c := .step) hs nofun
    exact ⟨t, (step_of_script_nil hl).trans ht, hsame, hrest ▸ hscript⟩
  | cons c rest =>
    rw [hl] at hscript
    obtain ⟨hc, hnoReset⟩ := List.forall_mem_cons.1 hscript
    obtain ⟨t, ht, hsame, hrest⟩ := command_of_terminal (s := { s with script := rest }) hs hc
    exact ⟨t, (step_of_script_cons hl).trans ht, hsame, hrest ▸ hnoReset⟩

/-- Settles O23, by induction on the number of steps: each one keeps the status and lists no `RESET`. -/
theorem anEndedRunIsFrozen : Obligations.AnEndedRunIsFrozen := by
  intro k s hs hscript
  induction k generalizing s with
  | zero => exact ⟨s, rfl, sameButLatch_refl s⟩
  | succ k ih =>
    obtain ⟨u, hstep, hsame, hnoReset⟩ := step_of_terminal hs hscript
    obtain ⟨t, hrun, hrest⟩ := ih u (status_of_sameButLatch hsame ▸ hs) hnoReset
    exact ⟨t, (EncodingFamily.run_succ_of_step k hstep).trans hrun, sameButLatch_trans hsame hrest⟩

end Sys2Proof.SequencerFamily
end

section
/-! The family 41_direction: the instructions that set the direction (rules R120 to R127) and `#` (rule R128). -/

namespace Sys2Proof.DirectionFamily

open Sys2Proof Sys2Proof.Machine

theorem decodeCell_of_mem_directionRows {op : Code} {i : Instr} (h : (op, i) ∈ directionRows) :
    decodeCell false op = i :=
  EncodingFamily.decodeNormal_of_mem_opcodeRows (op, i) (by simp only [opcodeRows, List.mem_append, h, true_or])

/-! ### The four turns (rules R120 to R123) -/

/-- Settles O24: both are the shared form `turn`. -/
theorem goEastAndGoWestTurn : Obligations.GoEastAndGoWestTurn :=
  ⟨decodeCell_of_mem_directionRows (by decide), decodeCell_of_mem_directionRows (by decide),
    fun s => ⟨turn_eq .east s, turn_eq .west s⟩⟩

/-- North is `(0, -1)` (rule R32, decision D5). -/
theorem movedOn_dy_north (m p : Nat) : movedOn m p (dy .north) = (((p : Int) - 1) % (m : Int)).toNat := by
  rw [movedOn, dy, Int.sub_eq_add_neg]

/-- South is `(0, +1)` (rule R32, decision D5). -/
theorem movedOn_dy_south (m p : Nat) : movedOn m p (dy .south) = (((p : Int) + 1) % (m : Int)).toNat := rfl

/-- Settles O25: both are the shared form `turn`, and the row follows from the vectors of North and South. The capital
`V` has no row in the map. -/
theorem goNorthAndGoSouthTurn : Obligations.GoNorthAndGoSouthTurn :=
  ⟨decodeCell_of_mem_directionRows (by decide), decodeCell_of_mem_directionRows (by decide),
    EncodingFamily.decodeNormal_of_unrecognised (op := 0x56) (by decide),
    fun s => ⟨turn_eq .north s, turn_eq .south s, movedOn_dy_north s.cfg.height s.y, movedOn_dy_south s.cfg.height s.y⟩⟩

/-! ### The random turn (rules R47 and R124) -/

theorem sampleDraw_of_draws_cons {s : State} {d : Dir} {rest : List Dir} (h : s.draws = d :: rest) :
    sampleDraw s = (d, { s with draws := rest }) := by
  rw [sampleDraw, h]

theorem sampleDraw_of_draws_nil {s : State} (h : s.draws = []) :
    sampleDraw s = (Config.freeDraw s.drawCount, { s with drawCount := s.drawCount + 1 }) := by
  rw [sampleDraw, h]

/-- Everything `?` does (rule R124): it turns to what it samples. -/
theorem exec_goRandom_eq {s s' : State} {d : Dir} (h : sampleDraw s = (d, s')) :
    exec .goRandom s = .next (State.completed { s' with dir := d } .directionChanged) := by
  simp only [exec, execGoRandom, h, turn_eq]

/-- Settles O26: the sample is the head of the listed draws, or a free value. -/
theorem goRandomFollowsTheDraw : Obligations.GoRandomFollowsTheDraw :=
  ⟨decodeCell_of_mem_directionRows (by decide), fun _ =>
    ⟨fun _ _ hcons => exec_goRandom_eq (sampleDraw_of_draws_cons hcons),
      fun hnil => ⟨_, exec_goRandom_eq (sampleDraw_of_draws_nil hnil)⟩⟩⟩

/-! ### The branches (rules R125 and R126) -/

theorem exec_ifHoriz_eq (s : State) :
    exec .ifHoriz s = turn (if s.nth 0 = 0 then .east else .west) { s with stack := s.stack.drop 1 } := by
  rw [exec, execIfHoriz, pop_eq]
  rfl

theorem exec_ifVert_eq (s : State) :
    exec .ifVert s = turn (if s.nth 0 = 0 then .south else .north) { s with stack := s.stack.drop 1 } := by
  rw [exec, execIfVert, pop_eq]
  rfl

/-- Settles O27: both turn by the popped value, which is 0 for an empty stack. -/
theorem branchesTestForZero : Obligations.BranchesTestForZero :=
  ⟨decodeCell_of_mem_directionRows (by decide), decodeCell_of_mem_directionRows (by decide),
    fun s => ⟨(exec_ifHoriz_eq s).trans (turn_eq _ _), (exec_ifVert_eq s).trans (turn_eq _ _)⟩⟩

/-! ### The bridge (rule R128) -/

/-- Settles O28: `#` is `COMPLETE(2)`. -/
theorem bridgeSkipsOneCell : Obligations.BridgeSkipsOneCell :=
  ⟨decodeCell_of_mem_directionRows (by decide), fun s => complete_two .none s⟩

end Sys2Proof.DirectionFamily
end

section
/-! The family 42_string_mode: the quote, which opens and closes a literal (rules R140 and R142), and the codes inside
it, which are pushed (rule R141). -/

namespace Sys2Proof.StringModeFamily

open Sys2Proof Sys2Proof.Machine

/-- What both quotes do once decoded: `smode` is the only register written before `COMPLETE(1)`. -/
theorem complete_one_setStringMode (b : Bool) (s : State) :
    complete 1 .none (setStringMode b s) = .next (State.completed { s with smode := b } .none) :=
  complete_one .none _

/-- Settles O29: `0x22` is the code of both quotes, each decoded in its own mode. -/
theorem quotesToggleStringMode : Obligations.QuotesToggleStringMode :=
  ⟨SequencerFamily.decodeCell_of_encode (i := .strOn) rfl, SequencerFamily.decodeCell_of_encode (i := .strOff) rfl,
    fun s => ⟨complete_one_setStringMode true s, complete_one_setStringMode false s⟩⟩

/-- Everything `STR_PUSH` does where the build takes the push (rule R141). -/
theorem exec_strPush_of_accepts {op : Code} {s : State} (h : Accepts s.cfg s.stack.length op.toNat) :
    exec (.strPush op) s = .next (EncodingFamily.pushCode op s) :=
  pushResult_of_accepts s h

/-- Settles O30: a code that is not the quote is data, and a push that the build takes completes. -/
theorem stringModePushesCodes : Obligations.StringModePushesCodes :=
  fun _ _ hquote => ⟨EncodingFamily.decodeString_of_ne_quote hquote, exec_strPush_of_accepts⟩

end Sys2Proof.StringModeFamily
end

section
/-! The family 43_alu: the digits (rule R150), arithmetic (rules R151 to R155) and the two tests (rules R156 and
R157). -/

namespace Sys2Proof.AluFamily

open Sys2Proof Sys2Proof.Machine

theorem decodeCell_of_mem_digitRows {op : Code} {i : Instr} (h : (op, i) ∈ digitRows) : decodeCell false op = i :=
  EncodingFamily.decodeNormal_of_mem_opcodeRows (op, i) (by simp only [opcodeRows, List.mem_append, h, or_true, true_or])

theorem decodeCell_of_mem_aluRows {op : Code} {i : Instr} (h : (op, i) ∈ aluRows) : decodeCell false op = i :=
  EncodingFamily.decodeNormal_of_mem_opcodeRows (op, i) (by simp only [opcodeRows, List.mem_append, h, or_true, true_or])

/-! ### The operand forms where the build takes the push (rules R83 and R84) -/

theorem unaryOp_of_accepts {f : Int → Int} {s : State} {v : Int} (hv : f (s.nth 0) = v)
    (h : Accepts s.cfg (s.stack.length - 1) v) :
    unaryOp f s = .next (State.completed { s with stack := v :: s.stack.drop 1 } (.stackPushed v)) := by
  rw [unaryOp_eq, hv]
  exact pushResult_of_accepts s (by rwa [List.length_drop])

theorem binaryOp_of_accepts {f : Int → Int → Int} {s : State} {v : Int} (hv : f (s.nth 1) (s.nth 0) = v)
    (h : Accepts s.cfg (s.stack.length - 2) v) :
    binaryOp f s = .next (State.completed { s with stack := v :: s.stack.drop 2 } (.stackPushed v)) := by
  rw [binaryOp_eq, hv]
  exact pushResult_of_accepts s (by rwa [List.length_drop])

/-! ### The digits (rule R150) -/

/-- Each digit's instruction is the shared form at the code of its row. -/
theorem exec_of_mem_digitRows {op : Code} {i : Instr} (h : (op, i) ∈ digitRows) (s : State) :
    exec i s = pushDigit op s := by
  simp only [digitRows, List.mem_cons, Prod.mk.injEq, List.not_mem_nil, or_false] at h
  rcases h with ⟨rfl, rfl⟩ | ⟨rfl, rfl⟩ | ⟨rfl, rfl⟩ | ⟨rfl, rfl⟩ | ⟨rfl, rfl⟩ | ⟨rfl, rfl⟩ | ⟨rfl, rfl⟩ | ⟨rfl, rfl⟩ |
    ⟨rfl, rfl⟩ | ⟨rfl, rfl⟩ <;> rfl

theorem pushDigit_of_accepts {op : Code} {v : Int} {s : State} (hv : ofCode op - 0x30 = v)
    (h : Accepts s.cfg s.stack.length v) :
    pushDigit op s = .next (State.completed { s with stack := v :: s.stack } (.stackPushed v)) := by
  rw [pushDigit, hv]
  exact pushResult_of_accepts s h

/-- Settles O32: each of the ten pairs is a row of the map whose code exceeds `0x30` by the digit. -/
theorem digitsPushTheirValue : Obligations.DigitsPushTheirValue := by
  intro p hp
  have hrow : (BitVec.ofNat 8 (0x30 + p.2), p.1) ∈ digitRows ∧ ofCode (BitVec.ofNat 8 (0x30 + p.2)) - 0x30 = p.2 := by
    revert p
    decide
  obtain ⟨hmem, hvalue⟩ := hrow
  exact ⟨decodeCell_of_mem_digitRows hmem,
    fun s haccepts => (exec_of_mem_digitRows hmem s).trans (pushDigit_of_accepts hvalue haccepts)⟩

/-! ### Arithmetic (rules R151 to R155) -/

/-- Settles O33: the three are the shared form, `-` with the first value popped as the subtrahend; the model's sum and
product have the first value popped on the left. -/
theorem addSubMulAreExact : Obligations.AddSubMulAreExact := by
  refine ⟨decodeCell_of_mem_aluRows (by decide), decodeCell_of_mem_aluRows (by decide),
    decodeCell_of_mem_aluRows (by decide), fun s p hp haccepts => ?_⟩
  simp only [List.mem_cons, List.not_mem_nil, or_false] at hp
  rcases hp with rfl | rfl | rfl
  · exact binaryOp_of_accepts (f := fun b a => a + b) rfl haccepts
  · exact binaryOp_of_accepts (f := fun b a => b - a) rfl haccepts
  · exact binaryOp_of_accepts (f := fun b a => a * b) rfl haccepts

/-- Rule R154 in both builds, over the library's floored and truncated division. -/
theorem quotient_eq (c : Config) (b a : Int) :
    quotient c b a = if a = 0 then 0 else if c.divMode = .floor then Int.fdiv b a else Int.tdiv b a := by
  unfold quotient
  cases c.divMode <;> rfl

/-- Rule R155 in both builds: the remainder is what the quotient leaves. -/
theorem remainder_eq (c : Config) (b a : Int) :
    remainder c b a = if a = 0 then 0 else b - a * quotient c b a := by
  unfold remainder
  split
  · rfl
  · next ha =>
    rw [quotient, if_neg ha]
    cases c.divMode <;> rfl

/-- Settles O34: both are the shared form, at the quotient and the remainder of the build's mode. -/
theorem divAndModRoundAsTheBuildSays : Obligations.DivAndModRoundAsTheBuildSays := by
  refine ⟨decodeCell_of_mem_aluRows (by decide), decodeCell_of_mem_aluRows (by decide), fun s q r hq hr => ?_⟩
  rw [← quotient_eq] at hq
  subst hq
  rw [← remainder_eq] at hr
  exact ⟨binaryOp_of_accepts rfl, binaryOp_of_accepts hr.symm⟩

/-! ### The tests (rules R156 and R157) -/

theorem truth_decide (p : Prop) [Decidable p] : truth (decide p) = if p then 1 else 0 := by
  by_cases h : p <;> simp [truth, h]

/-- Settles O35: both are the shared form at a truth value. -/
theorem notAndGreaterThan : Obligations.NotAndGreaterThan := by
  refine ⟨decodeCell_of_mem_aluRows (by decide), decodeCell_of_mem_aluRows (by decide), fun s =>
    ⟨fun v hv haccepts => ?_, fun v hv haccepts => ?_⟩⟩
  · rw [← truth_decide] at hv
    exact unaryOp_of_accepts (f := fun a => truth (decide (a = 0))) hv.symm haccepts
  · rw [← truth_decide] at hv
    exact binaryOp_of_accepts (f := fun b a => truth (decide (b > a))) hv.symm haccepts

end Sys2Proof.AluFamily
end

section
/-! The family 44_stack: `:`, `\` and `$` (rules R170 to R172), and why no instruction can observe the depth of the
stack. -/

namespace Sys2Proof.StackFamily

open Sys2Proof Sys2Proof.Machine

/-! ### Two pushes where the build takes both (rule R219) -/

theorem pushTwo_of_accepts (s0 : State) {v w : Int} {s : State} (hv : Accepts s.cfg s.stack.length v)
    (hw : Accepts s.cfg (s.stack.length + 1) w) :
    pushTwo s0 v w s = .next (State.completed { s with stack := w :: v :: s.stack } (.stackPushed w)) := by
  rw [pushTwo_eq, (pushCheck_eq_none _ _ _).2 hv]
  exact pushResult_of_accepts s0 hw

/-! ### What the three instructions do (rules R170 to R172) -/

theorem exec_dup_eq_of_two {s : State} (h : s.cfg.dupEmpty = .two) :
    exec .dup s = pushTwo s (s.nth 0) (s.nth 0) { s with stack := s.stack.drop 1 } := by
  rw [exec, execDup, h, pop_eq]
  rfl

theorem exec_dup_eq_of_one {s : State} (h : s.cfg.dupEmpty = .one) : exec .dup s = pushResult s (s.nth 0) s := by
  rw [exec, execDup, h, pop_eq]
  rfl

theorem exec_swap_eq (s : State) :
    exec .swap s = pushTwo s (s.nth 0) (s.nth 1) { s with stack := s.stack.drop 2 } := by
  simp [exec, execSwap, pop_eq, State.nth]

theorem exec_drop_eq (s : State) :
    exec .drop s = complete 1 (.stackPopped (s.nth 0)) { s with stack := s.stack.drop 1 } := by
  rw [exec, execDrop, pop_eq]
  rfl

/-- Settles O36: one reading of an empty stack pushes twice what it pops, the other pushes the top once more. -/
theorem dupRepeatsTheTop : Obligations.DupRepeatsTheTop := by
  refine ⟨AluFamily.decodeCell_of_mem_aluRows (by decide), fun s =>
    ⟨fun htwo hfirst hsecond => ?_, fun hone haccepts => ?_⟩⟩
  · rw [← List.length_drop] at hfirst hsecond
    exact (exec_dup_eq_of_two htwo).trans (pushTwo_of_accepts s hfirst hsecond)
  · exact (exec_dup_eq_of_one hone).trans (pushResult_of_accepts s haccepts)

/-- Settles O37: `\` pushes the two popped values in the order of popping, and `$` only pops. -/
theorem swapAndDrop : Obligations.SwapAndDrop := by
  refine ⟨AluFamily.decodeCell_of_mem_aluRows (by decide), AluFamily.decodeCell_of_mem_aluRows (by decide), fun s =>
    ⟨fun hfirst hsecond => ?_, (exec_drop_eq s).trans (complete_one _ _)⟩⟩
  rw [← List.length_drop] at hfirst hsecond
  exact (exec_swap_eq s).trans (pushTwo_of_accepts s hfirst hsecond)

/-! ### Instructions of other families, over the shared forms (rules R124, R190 and R192) -/

theorem exec_goRandom_eq_turn (s : State) : exec .goRandom s = turn (sampleDraw s).1 (sampleDraw s).2 := rfl

theorem exec_outInt_eq (s : State) :
    exec .outInt s = complete 1 (.integerOutput (s.nth 0)) { s with stack := s.stack.drop 1 } := by
  rw [exec, execOutInt, pop_eq]
  rfl

theorem exec_outChr_eq (s : State) :
    exec .outChr s = complete 1 (.characterOutput (s.nth 0))
      { s with stack := s.stack.drop 1, acc := s.acc ++ [s.nth 0] } := by
  rw [exec, execOutChr, pop_eq]
  rfl

/-! ### Stacks that agree on every value (rule R35) -/

theorem sameValues_cons (v : Int) {l m : List Int} (h : SameValues l m) : SameValues (v :: l) (v :: m)
  | 0 => rfl
  | n + 1 => by simpa using h n

theorem sameValues_drop (k : Nat) {l m : List Int} (h : SameValues l m) : SameValues (l.drop k) (m.drop k) := by
  intro n
  simpa [List.getD_eq_getElem?_getD] using h (k + n)

/-- Popping the top, or the 0 that an empty stack gives for it, and pushing it back shows nothing. -/
theorem sameValues_repush (l : List Int) : SameValues (l.getD 0 0 :: l.drop 1) l := by
  cases l with
  | nil => exact fun n => by cases n <;> rfl
  | cons v rest => exact fun n => rfl

/-! ### States that differ in the depth of the stack only (rule R170) -/

/-- The state with another stack, in a build that reads `:` on an empty stack as `d` says. -/
def disguise (l : List Int) (d : DupEmpty) (s : State) : State :=
  { s with stack := l, cfg := { s.cfg with dupEmpty := d } }

theorem indistinct_disguise {s : State} {l : List Int} (h : SameValues s.stack l) (d : DupEmpty) :
    Indistinct s (disguise l d s) :=
  ⟨h, rfl, rfl⟩

theorem exists_disguise {s t : State} (h : Indistinct s t) :
    ∃ l d, SameValues s.stack l ∧ t = disguise l d s := by
  obtain ⟨hstack, ht, hcfg⟩ := h
  refine ⟨t.stack, t.cfg.dupEmpty, hstack, ?_⟩
  rw [hcfg] at ht
  exact ht

/-- The function neither reads nor writes the stack and the build's `DUP_EMPTY`. -/
def StackBlind (f : State → State) : Prop :=
  ∀ l d s, (f s).stack = s.stack ∧ f (disguise l d s) = disguise l d (f s)

theorem StackBlind.indistinct {f : State → State} (hf : StackBlind f) {s t : State} (h : Indistinct s t) :
    Indistinct (f s) (f t) := by
  obtain ⟨l, d, hstack, rfl⟩ := exists_disguise h
  obtain ⟨hkeeps, hcommutes⟩ := hf l d s
  rw [hcommutes]
  exact indistinct_disguise (hkeeps ▸ hstack) d

theorem stackBlind_advanceBy (n : Nat) : StackBlind (advanceBy n) := by
  induction n with
  | zero => exact fun _ _ _ => ⟨rfl, rfl⟩
  | succ n ih => exact fun l d s => ih l d (advance s)

section
variable {s t : State} (h : Indistinct s t)
include h

theorem nth_eq_of_indistinct (n : Nat) : t.nth n = s.nth n := (h.1 n).symm

theorem indistinct_with_stack {l m : List Int} (hlm : SameValues l m) :
    Indistinct { s with stack := l } { t with stack := m } := by
  obtain ⟨_, d, -, rfl⟩ := exists_disguise h
  exact indistinct_disguise (s := { s with stack := l }) hlm d

theorem indistinct_drop (n : Nat) :
    Indistinct { s with stack := s.stack.drop n } { t with stack := t.stack.drop n } :=
  indistinct_with_stack h (sameValues_drop n h.1)

theorem unbounded_of_indistinct (hs : Unbounded s.cfg) : Unbounded t.cfg := by
  obtain ⟨_, _, -, rfl⟩ := exists_disguise h
  exact hs

theorem quotient_eq_of_indistinct : quotient t.cfg = quotient s.cfg := by
  obtain ⟨_, _, -, rfl⟩ := exists_disguise h
  rfl

theorem remainder_eq_of_indistinct : remainder t.cfg = remainder s.cfg := by
  obtain ⟨_, _, -, rfl⟩ := exists_disguise h
  rfl

theorem gridRead_eq_of_indistinct : gridRead t = gridRead s := by
  obtain ⟨_, _, -, rfl⟩ := exists_disguise h
  rfl

/-- Both sample the same draw (rule R47). -/
theorem sampleDraw_of_indistinct :
    (sampleDraw t).1 = (sampleDraw s).1 ∧ Indistinct (sampleDraw s).2 (sampleDraw t).2 := by
  have hdraws : t.draws = s.draws := by
    rw [h.2.1]
  cases hd : s.draws with
  | nil =>
    rw [DirectionFamily.sampleDraw_of_draws_nil hd, DirectionFamily.sampleDraw_of_draws_nil (hdraws.trans hd)]
    refine ⟨by rw [h.2.1], StackBlind.indistinct (f := fun u => { u with drawCount := u.drawCount + 1 }) ?_ h⟩
    exact fun _ _ _ => ⟨rfl, rfl⟩
  | cons d rest =>
    rw [DirectionFamily.sampleDraw_of_draws_cons hd, DirectionFamily.sampleDraw_of_draws_cons (hdraws.trans hd)]
    refine ⟨rfl, StackBlind.indistinct (f := fun u => { u with draws := rest }) ?_ h⟩
    exact fun _ _ _ => ⟨rfl, rfl⟩

end

/-! ### Outcomes that cannot be told apart -/

/-- Both answer a next state, and the two states are indistinct. -/
def Alike (o p : Host.Outcome State Fault Refusal) : Prop :=
  ∃ s' t', o = .next s' ∧ p = .next t' ∧ Indistinct s' t'

variable {s t : State}

section
variable (h : Indistinct s t)
include h

theorem alike_of_stackBlind {f : State → State} (hf : StackBlind f) : Alike (.next (f s)) (.next (f t)) :=
  ⟨f s, f t, rfl, rfl, hf.indistinct h⟩

theorem alike_complete (n : Nat) (e : Event) : Alike (complete n e s) (complete n e t) :=
  alike_of_stackBlind ((stackBlind_advanceBy n).indistinct h) (f := fun u => emit e (countStep u))
    fun _ _ _ => ⟨rfl, rfl⟩

theorem alike_complete_of_stackBlind {f : State → State} (hf : StackBlind f) (n : Nat) (e : Event) :
    Alike (complete n e (f s)) (complete n e (f t)) :=
  alike_complete (hf.indistinct h) n e

theorem alike_turn (d : Dir) : Alike (turn d s) (turn d t) :=
  alike_complete_of_stackBlind h (f := fun u => { u with dir := d }) (fun _ _ _ => ⟨rfl, rfl⟩) 1 _

theorem alike_setStringMode (b : Bool) :
    Alike (complete 1 .none (setStringMode b s)) (complete 1 .none (setStringMode b t)) :=
  alike_complete_of_stackBlind h (f := setStringMode b) (fun _ _ _ => ⟨rfl, rfl⟩) 1 _

theorem alike_suspend (st : Status) (k : InputKind) : Alike (suspend st k s) (suspend st k t) :=
  alike_of_stackBlind h (f := fun u => emit (.inputRequested k) { u with status := st }) fun _ _ _ => ⟨rfl, rfl⟩

theorem alike_halt : Alike (halt s) (halt t) :=
  alike_of_stackBlind h (f := fun u => emit .halted (countStep { u with status := .halted })) fun _ _ _ => ⟨rfl, rfl⟩

theorem alike_put : Alike (exec .put s) (exec .put t) := by
  rw [MemoryFamily.exec_put_eq, MemoryFamily.exec_put_eq, nth_eq_of_indistinct h, nth_eq_of_indistinct h,
    nth_eq_of_indistinct h]
  exact alike_of_stackBlind (indistinct_drop h 3) (f := fun u =>
    State.completed (gridWrite (s.nth 0) (s.nth 1) (s.nth 2) u)
      (.cellWritten (wrapX u.cfg (s.nth 0)) (wrapY u.cfg (s.nth 1)) (toCode u.cfg (s.nth 2)))) fun _ _ _ => ⟨rfl, rfl⟩

end

/-! ### The pushes of an unbounded build -/

theorem pushResult_of_unbounded (hs : Unbounded s.cfg) (v : Int) (l : List Int) :
    pushResult s v { s with stack := l } = complete 1 (.stackPushed v) { s with stack := v :: l } :=
  (pushResult_of_accepts s (s := { s with stack := l }) (EncodingFamily.accepts_of_unbounded hs _ v)).trans
    (complete_one _ _).symm

theorem pushTwo_of_unbounded (hs : Unbounded s.cfg) (v w : Int) (l : List Int) :
    pushTwo s v w { s with stack := l } = pushResult s w { s with stack := v :: l } := by
  rw [pushTwo_eq, (pushCheck_eq_none _ _ _).2 (EncodingFamily.accepts_of_unbounded hs _ v)]

/-- In either reading of an empty stack, `:` pushes the top onto a stack that shows what it showed before. -/
theorem exec_dup_of_unbounded (hs : Unbounded s.cfg) :
    ∃ l, SameValues l s.stack ∧ exec .dup s = pushResult s (s.nth 0) { s with stack := l } := by
  cases hd : s.cfg.dupEmpty with
  | two =>
    refine ⟨s.nth 0 :: s.stack.drop 1, sameValues_repush s.stack, ?_⟩
    rw [exec_dup_eq_of_two hd, pushTwo_of_unbounded hs]
  | one => exact ⟨s.stack, fun _ => rfl, exec_dup_eq_of_one hd⟩

section
variable (hs : Unbounded s.cfg) (h : Indistinct s t)
include hs h

theorem alike_pushResult (v : Int) {l m : List Int} (hlm : SameValues l m) :
    Alike (pushResult s v { s with stack := l }) (pushResult t v { t with stack := m }) := by
  rw [pushResult_of_unbounded hs, pushResult_of_unbounded (unbounded_of_indistinct h hs)]
  exact alike_complete (indistinct_with_stack h (sameValues_cons v hlm)) 1 _

theorem alike_unaryOp (f : Int → Int) : Alike (unaryOp f s) (unaryOp f t) := by
  rw [unaryOp_eq, unaryOp_eq, nth_eq_of_indistinct h]
  exact alike_pushResult hs h _ (sameValues_drop 1 h.1)

theorem alike_binaryOp (f : Int → Int → Int) : Alike (binaryOp f s) (binaryOp f t) := by
  rw [binaryOp_eq, binaryOp_eq, nth_eq_of_indistinct h, nth_eq_of_indistinct h]
  exact alike_pushResult hs h _ (sameValues_drop 2 h.1)

theorem alike_dup : Alike (exec .dup s) (exec .dup t) := by
  obtain ⟨l, hl, hexec⟩ := exec_dup_of_unbounded hs
  obtain ⟨m, hm, hexec'⟩ := exec_dup_of_unbounded (unbounded_of_indistinct h hs)
  have hlm : SameValues l m := fun n => (hl n).trans ((h.1 n).trans (hm n).symm)
  rw [hexec, hexec', nth_eq_of_indistinct h]
  exact alike_pushResult hs h _ hlm

theorem alike_swap : Alike (exec .swap s) (exec .swap t) := by
  rw [exec_swap_eq, exec_swap_eq, nth_eq_of_indistinct h, nth_eq_of_indistinct h, pushTwo_of_unbounded hs,
    pushTwo_of_unbounded (unbounded_of_indistinct h hs)]
  exact alike_pushResult hs h _ (sameValues_cons _ (sameValues_drop 2 h.1))

/-- From two indistinct states of unbounded builds, every instruction answers alike. -/
theorem alike_exec (i : Instr) : Alike (exec i s) (exec i t) := by
  have hpop := indistinct_drop h 1
  have htop := nth_eq_of_indistinct h 0
  cases i with
  | goEast | goWest | goNorth | goSouth => exact alike_turn h _
  | goRandom =>
    obtain ⟨hdraw, hrest⟩ := sampleDraw_of_indistinct h
    rw [exec_goRandom_eq_turn, exec_goRandom_eq_turn, hdraw]
    exact alike_turn hrest _
  | ifHoriz =>
    rw [DirectionFamily.exec_ifHoriz_eq, DirectionFamily.exec_ifHoriz_eq, htop]
    exact alike_turn hpop _
  | ifVert =>
    rw [DirectionFamily.exec_ifVert_eq, DirectionFamily.exec_ifVert_eq, htop]
    exact alike_turn hpop _
  | strOn | strOff => exact alike_setStringMode h _
  | bridge | nop | nopOther => exact alike_complete h _ _
  | push0 | push1 | push2 | push3 | push4 | push5 | push6 | push7 | push8 | push9 | strPush =>
    exact alike_pushResult hs h _ h.1
  | add | sub | mul | gt =>
    simp only [exec, execAdd, execSub, execMul, execGt]
    exact alike_binaryOp hs h _
  | div =>
    rw [exec, exec, execDiv, execDiv, quotient_eq_of_indistinct h]
    exact alike_binaryOp hs h _
  | mod =>
    rw [exec, exec, execMod, execMod, remainder_eq_of_indistinct h]
    exact alike_binaryOp hs h _
  | get =>
    rw [exec, exec, execGet, execGet, gridRead_eq_of_indistinct h]
    exact alike_binaryOp hs h _
  | not =>
    rw [exec, exec, execNot, execNot]
    exact alike_unaryOp hs h _
  | dup => exact alike_dup hs h
  | swap => exact alike_swap hs h
  | drop =>
    rw [exec_drop_eq, exec_drop_eq, htop]
    exact alike_complete hpop 1 _
  | outInt =>
    rw [exec_outInt_eq, exec_outInt_eq, htop]
    exact alike_complete hpop 1 _
  | outChr =>
    rw [exec_outChr_eq, exec_outChr_eq, htop]
    exact alike_complete_of_stackBlind hpop (f := fun u => { u with acc := u.acc ++ [s.nth 0] })
      (fun _ _ _ => ⟨rfl, rfl⟩) 1 _
  | put => exact alike_put h
  | inInt | inChr => exact alike_suspend h _ _
  | halt => exact alike_halt h

end

/-- Settles O38: `alike_exec`, the two readings of `:` being indistinct by `sameValues_repush`. -/
theorem stackDepthIsUnobservable : Obligations.StackDepthIsUnobservable :=
  fun i _ _ hs h => alike_exec hs h i

end Sys2Proof.StackFamily
end

section
/-! The family 45_grid_access: `g` (rules R180 and R181), `p` (rule R182), and a `g` of what a `p` has stored
(rule R183). -/

namespace Sys2Proof.GridAccessFamily

open Sys2Proof Sys2Proof.Machine

theorem decodeCell_of_mem_otherRows {op : Code} {i : Instr} (h : (op, i) ∈ otherRows) : decodeCell false op = i :=
  EncodingFamily.decodeNormal_of_mem_opcodeRows (op, i) (by simp only [opcodeRows, List.mem_append, h, or_true])

theorem gridRead_eq_read (s : State) (i j : Int) : gridRead s i j = s.grid.read (addressOf s.cfg i j) := by
  rw [gridRead, cellAddr_eq]

/-- Everything `g` does where the build takes the push (rule R180): the first value popped is the column. -/
theorem exec_get_of_accepts {s : State} {c : Int} (hc : ((gridRead s (s.nth 0) (s.nth 1)).toNat : Int) = c)
    (h : Accepts s.cfg (s.stack.length - 2) c) :
    exec .get s = .next (State.completed { s with stack := c :: s.stack.drop 2 } (.stackPushed c)) :=
  AluFamily.binaryOp_of_accepts (f := fun b a => ofCode (gridRead s a b)) hc h

/-- Settles O39: `g` is the shared form at the code of the addressed cell. The capital `G` has no row in the map. -/
theorem getPushesACell : Obligations.GetPushesACell :=
  ⟨decodeCell_of_mem_otherRows (by decide), EncodingFamily.decodeNormal_of_unrecognised (op := 0x47) (by decide),
    fun s _ hc => ⟨gridRead_eq_read s _ _, exec_get_of_accepts hc.symm⟩⟩

/-- Settles O40: the grid that `p` leaves is one write of the old one, at an address inside the grid. The capital `P` has
no row in the map. -/
theorem putWritesOneCell : Obligations.PutWritesOneCell := by
  refine ⟨decodeCell_of_mem_otherRows (by decide),
    EncodingFamily.decodeNormal_of_unrecognised (op := 0x50) (by decide), fun s hs =>
      ⟨_, MemoryFamily.exec_put_eq s, ?_, Memory.wf_write _ (cellAddr_lt s.cfg _ _) hs, fun k => ?_⟩⟩
  · rw [wrapX_eq, wrapY_eq, toCode_residue]
    rfl
  · calc (s.grid.write (cellAddr s.cfg (s.nth 0) (s.nth 1)) (toCode s.cfg (s.nth 2))).read k
      _ = if cellAddr s.cfg (s.nth 0) (s.nth 1) = k then toCode s.cfg (s.nth 2) else s.grid.read k :=
        Memory.read_write _ hs k
      _ = _ := by
        rw [cellAddr_eq, toCode_residue]
        exact if_congr eq_comm rfl rfl

/-- A stored residue is read back as the number it is: it is below 256, so the eight bits of a cell hold it. -/
theorem toNat_residue (v : Int) : ((BitVec.ofNat 8 (v % 256).toNat).toNat : Int) = v % 256 := by
  rw [BitVec.toNat_ofNat]
  omega

/-- The cell that a `p` has written, read at any coordinates that wrap to it (rules R61 and R182). -/
theorem gridRead_written_cell {s t : State} (hs : s.grid.wf s.cfg.ncells = true) (h : exec .put s = .next t) {i j : Int}
    (hi : i % (s.cfg.width : Int) = s.nth 0 % (s.cfg.width : Int))
    (hj : j % (s.cfg.height : Int) = s.nth 1 % (s.cfg.height : Int)) :
    gridRead t i j = BitVec.ofNat 8 (s.nth 2 % 256).toNat := by
  rw [MemoryFamily.gridRead_of_put hs h, if_pos]
  rw [addressOf, addressOf, hi, hj]

/-- Settles O41: the `g` reads the cell that `p` has written, and the code there is the residue itself. -/
theorem putThenGet : Obligations.PutThenGet := by
  intro s t u a' b' rest hs h hcfg hgrid hstack ha hb haccepts
  have hx : u.nth 0 = a' := by rw [State.nth, hstack]; rfl
  have hy : u.nth 1 = b' := by rw [State.nth, hstack]; rfl
  have hcell : ((gridRead u (u.nth 0) (u.nth 1)).toNat : Int) = s.nth 2 % 256 := by
    calc ((gridRead u (u.nth 0) (u.nth 1)).toNat : Int)
      _ = ((gridRead t a' b').toNat : Int) := by rw [hx, hy, gridRead, gridRead, hgrid, hcfg]
      _ = s.nth 2 % 256 := by rw [gridRead_written_cell hs h ha hb, toNat_residue]
  refine ⟨_, exec_get_of_accepts hcell ?_, ?_⟩
  · rwa [hstack]
  · rw [State.completed, hstack]
    rfl

end Sys2Proof.GridAccessFamily
end

section
/-! The family 46_io_halt: the outputs `.` and `,` (rules R190 and R192), the inputs `&` and `~`, which suspend (rules
R195 and R198) until a `RESUME` completes them (rule R193), the integer parser (rule R197), and `@` (rule R200). -/

namespace Sys2Proof.InOutFamily

open Sys2Proof Sys2Proof.Machine

/-! ### Output, suspension and halt (rules R190, R192, R195, R198 and R200) -/

/-- Settles O43: both outputs are `COMPLETE(1)` after their own writes. -/
theorem outputsReportThePoppedValue : Obligations.OutputsReportThePoppedValue :=
  ⟨GridAccessFamily.decodeCell_of_mem_otherRows (by decide),
    GridAccessFamily.decodeCell_of_mem_otherRows (by decide),
    fun s => ⟨(StackFamily.exec_outInt_eq s).trans (complete_one _ _),
      (StackFamily.exec_outChr_eq s).trans (complete_one _ _)⟩⟩

/-- What both inputs do at their `STEP`. -/
theorem suspend_eq (st : Status) (k : InputKind) (s : State) :
    suspend st k s = .next (State.reporting { s with status := st } (.inputRequested k)) := rfl

/-- Settles O44: both inputs are the shared form `suspend`. -/
theorem inputsSuspend : Obligations.InputsSuspend :=
  ⟨GridAccessFamily.decodeCell_of_mem_otherRows (by decide),
    GridAccessFamily.decodeCell_of_mem_otherRows (by decide),
    fun s => ⟨⟨_, suspend_eq .awaitInt .integer s, rfl, rfl⟩, ⟨_, suspend_eq .awaitChr .character s, rfl, rfl⟩⟩⟩

theorem halt_eq (s : State) :
    halt s = .next (State.reporting { s with status := .halted, steps := s.steps + 1 } .halted) := rfl

/-- Settles O47: `@` is the shared form `halt`. -/
theorem haltEndsTheRun : Obligations.HaltEndsTheRun :=
  ⟨GridAccessFamily.decodeCell_of_mem_otherRows (by decide), fun s => ⟨_, halt_eq s, rfl, rfl⟩⟩

/-! ### The completion of an input (rules R193, R196 and R199) -/

/-- `v` is the value that the wait of `s` takes from the line (rules R196 and R199). -/
def LineGives (s : State) (line : List Nat) (v : Int) : Prop :=
  (s.status = .awaitInt ∧ v = parseLine s.cfg line) ∨ (s.status = .awaitChr ∧ v = firstCode line)

theorem resumeCommand_of_lineGives {s : State} {line : List Nat} {v : Int} (h : LineGives s line v) :
    resumeCommand line s = resumeWith v s := by
  rcases h with ⟨hs, rfl⟩ | ⟨hs, rfl⟩ <;> rw [resumeCommand, hs]

theorem resumeWith_of_accepts {s : State} {v : Int} (h : Accepts s.cfg s.stack.length v) :
    resumeWith v s = .next (State.completed { s with stack := v :: s.stack, status := .running } (.stackPushed v)) := by
  rw [resumeWith_eq, (pushCheck_eq_none _ _ _).2 h]

/-- Settles O45: in a wait the command pushes the line's value; in every other status it is ignored. -/
theorem resumeCompletesTheInput : Obligations.ResumeCompletesTheInput := by
  intro s line
  refine ⟨fun v hv haccepts => ⟨_, ?_, rfl, rfl⟩, fun hs => ?_⟩
  · exact (resumeCommand_of_lineGives hv).trans (resumeWith_of_accepts haccepts)
  · simp only [List.mem_cons, List.not_mem_nil, or_false, not_or] at hs
    obtain ⟨hint, hchr⟩ := hs
    exact SequencerFamily.resumeCommand_of_not_waiting line hint hchr

/-! ### White space around a line (rule R197) -/

theorem isWhite_iff (c : Nat) : isWhite c = true ↔ c ∈ [0x09, 0x0A, 0x0B, 0x0C, 0x0D, 0x20] :=
  List.contains_iff_mem

theorem trim_eq_rdropWhile (line : List Nat) : trim line = (line.dropWhile isWhite).rdropWhile isWhite := rfl

/-- Only white space is trimmed. -/
theorem exists_white_around_trim (line : List Nat) :
    ∃ before after, (∀ c ∈ before ++ after, isWhite c = true) ∧ line = before ++ trim line ++ after := by
  refine ⟨line.takeWhile isWhite, (line.dropWhile isWhite).rtakeWhile isWhite, fun c hc => ?_, ?_⟩
  · rcases List.mem_append.1 hc with hc | hc
    · exact List.mem_takeWhile_imp hc
    · exact List.mem_rtakeWhile_imp hc
  · rw [trim_eq_rdropWhile, List.append_assoc, List.rdropWhile_append_rtakeWhile, List.takeWhile_append_dropWhile]

/-- White space at the end of a line changes nothing that `rdropWhile` leaves. -/
theorem rdropWhile_append_white {after : List Nat} (h : ∀ c ∈ after, isWhite c = true) (l : List Nat) :
    (l ++ after).rdropWhile isWhite = l.rdropWhile isWhite := by
  rw [List.rdropWhile, List.reverse_append, List.dropWhile_append_of_pos fun c hc => h c (List.mem_reverse.1 hc)]
  rfl

/-- All white space around a text without any is trimmed. -/
theorem trim_of_white_around {before mid after : List Nat} (hwhite : ∀ c ∈ before ++ after, isWhite c = true)
    (hne : mid ≠ []) (hmid : ∀ c ∈ mid, ¬ isWhite c = true) : trim (before ++ mid ++ after) = mid := by
  obtain ⟨hbefore, hafter⟩ := List.forall_mem_append.1 hwhite
  have hdrop : (mid ++ after).dropWhile isWhite = mid ++ after := by
    cases mid with
    | nil => exact absurd rfl hne
    | cons c rest => exact List.dropWhile_cons_of_neg (hmid c List.mem_cons_self)
  calc trim (before ++ mid ++ after)
    _ = (mid ++ after).rdropWhile isWhite := by
      rw [trim_eq_rdropWhile, List.append_assoc, List.dropWhile_append_of_pos hbefore, hdrop]
    _ = mid.rdropWhile isWhite := rdropWhile_append_white hafter mid
    _ = mid := List.rdropWhile_eq_self_iff.2 fun hl => hmid _ (List.getLast_mem hl)

/-! ### The value of the digits (rule R197) -/

theorem allDigits_iff (ds : List Nat) : allDigits ds = true ↔ ds ≠ [] ∧ ∀ d ∈ ds, 0x30 ≤ d ∧ d ≤ 0x39 := by
  simp [allDigits, isDigit]

/-- Each digit times the power of ten of its place. -/
def positionalValue (ds : List Nat) : Int :=
  ((List.range ds.length).map (fun i => ((ds.getD i 0 - 0x30 : Nat) : Int) * 10 ^ (ds.length - 1 - i))).sum

theorem decimalValue_concat (ds : List Nat) (d : Nat) :
    decimalValue (ds ++ [d]) = decimalValue ds * 10 + (d - 0x30) := by
  simp [decimalValue]

/-- One digit more at the end moves every other digit one place up. -/
theorem positionalValue_concat (ds : List Nat) (d : Nat) :
    positionalValue (ds ++ [d]) = positionalValue ds * 10 + (d - 0x30 : Nat) := by
  rw [positionalValue, List.length_append, List.length_singleton, List.range_succ, List.map_append, List.sum_append,
    positionalValue, ← List.sum_map_mul_right]
  congr 2
  · refine List.map_congr_left fun i hi => ?_
    have hlt : i < ds.length := List.mem_range.1 hi
    have hplace : ds.length + 1 - 1 - i = ds.length - 1 - i + 1 := by omega
    rw [List.getD_append _ _ _ _ hlt, hplace, pow_succ, mul_assoc]
  · simp

theorem decimalValue_eq_positionalValue (ds : List Nat) : (decimalValue ds : Int) = positionalValue ds := by
  induction ds using List.reverseRecOn with
  | nil => rfl
  | append_singleton ds d ih => rw [decimalValue_concat, positionalValue_concat, ← ih]; push_cast; rfl

/-! ### The integer parser (rule R197) -/

/-- What rule R197 reads once the white space is off: an optional sign and one or more digits. -/
def IsNumeral (sign : Option Nat) (ds : List Nat) : Prop :=
  sign ∈ [none, some 0x2B, some 0x2D] ∧ allDigits ds = true

/-- A minus sign negates the value. -/
def signFactor (sign : Option Nat) : Int := if sign = some 0x2D then -1 else 1

section
variable {sign : Option Nat} {ds : List Nat} (h : IsNumeral sign ds)
include h

theorem numeral_ne_nil : sign.toList ++ ds ≠ [] :=
  List.append_ne_nil_of_right_ne_nil _ ((allDigits_iff ds).1 h.2).1

/-- Neither a sign nor a digit is white space. -/
theorem numeral_not_white : ∀ c ∈ sign.toList ++ ds, ¬ isWhite c = true := by
  obtain ⟨hsign, hds⟩ := h
  refine List.forall_mem_append.2 ⟨fun c hc => ?_, fun c hc => ?_⟩
  · rw [Option.mem_toList] at hc
    subst hc
    simp only [List.mem_cons, List.not_mem_nil, reduceCtorEq, or_false, false_or, Option.some.injEq] at hsign
    rcases hsign with rfl | rfl <;> decide
  · obtain ⟨hlo, hhi⟩ := ((allDigits_iff ds).1 hds).2 c hc
    simp only [isWhite_iff, List.mem_cons, List.not_mem_nil, or_false]
    omega

/-- A digit is neither of the signs. -/
theorem head?_digits_ne {c : Nat} (hc : c < 0x30) : ds.head? ≠ some c := fun hd => by
  have hlo := (((allDigits_iff ds).1 h.2).2 c (List.mem_of_head? hd)).1
  omega

theorem parseInt_of_trim_eq {line : List Nat} (ht : trim line = sign.toList ++ ds) :
    parseInt line = signFactor sign * decimalValue ds := by
  have hplus : ds.head? ≠ some 0x2B := head?_digits_ne h (by decide)
  have hminus : ds.head? ≠ some 0x2D := head?_digits_ne h (by decide)
  obtain ⟨hsign, hds⟩ := h
  simp only [List.mem_cons, List.not_mem_nil, or_false] at hsign
  rcases hsign with rfl | rfl | rfl
  · simp [parseInt, ht, hds, hplus, hminus, signFactor]
  · simp [parseInt, ht, hds, signFactor]
  · simp [parseInt, ht, hds, signFactor]

end

/-- Each branch of the parser but the last has read a numeral. -/
theorem exists_numeral_of_parseInt_ne_zero {line : List Nat} (h : parseInt line ≠ 0) :
    ∃ sign ds, IsNumeral sign ds ∧ trim line = sign.toList ++ ds := by
  unfold parseInt at h
  simp only [Bool.and_eq_true, decide_eq_true_eq] at h
  split at h
  · next hm => exact ⟨some 0x2D, _, ⟨by decide, hm.2⟩, (List.cons_head?_tail hm.1).symm⟩
  · split at h
    · next hp => exact ⟨some 0x2B, _, ⟨by decide, hp.2⟩, (List.cons_head?_tail hp.1).symm⟩
    · split at h
      · next hds => exact ⟨none, _, ⟨by decide, hds⟩, rfl⟩
      · exact absurd rfl h

/-- Settles O46: a numeral is what trimming leaves of a well-formed line, and only a numeral is read as another number
than 0. -/
theorem parseIntFollowsTheGrammar : Obligations.ParseIntFollowsTheGrammar := by
  refine ⟨rfl, fun c hc => ⟨fun before after ds sign hwhite hdigits hne hsign => ?_, fun line hline => ?_⟩⟩
  · have hnum : IsNumeral sign ds := ⟨hsign, (allDigits_iff ds).2 ⟨hne, hdigits⟩⟩
    have htrim : trim (before ++ (sign.toList ++ ds) ++ after) = sign.toList ++ ds :=
      trim_of_white_around (fun c hc => (isWhite_iff c).2 (hwhite c hc)) (numeral_ne_nil hnum) (numeral_not_white hnum)
    rw [← List.append_assoc] at htrim
    calc parseLine c (before ++ sign.toList ++ ds ++ after)
      _ = signFactor sign * decimalValue ds := (parseLine_of_r197 hc _).trans (parseInt_of_trim_eq hnum htrim)
      _ = signFactor sign * positionalValue ds := by rw [decimalValue_eq_positionalValue]
  · rw [parseLine_of_r197 hc]
    by_contra hvalue
    obtain ⟨sign, ds, ⟨hsign, hds⟩, htrim⟩ := exists_numeral_of_parseInt_ne_zero hvalue
    obtain ⟨hne, hdigits⟩ := (allDigits_iff ds).1 hds
    obtain ⟨before, after, hwhite, hsplit⟩ := exists_white_around_trim line
    refine hline ⟨before, after, ds, sign, fun c hc => (isWhite_iff c).1 (hwhite c hc), hdigits, hne, hsign, ?_⟩
    rw [hsplit, htrim, ← List.append_assoc]

end Sys2Proof.InOutFamily
end

section
/-! The family 60_exceptions: every command answers (rule R210), what faults and what a fault leaves alone (rules R42,
R211 and R216 to R219), and a cancellation requested during an input wait (rule R221). -/

namespace Sys2Proof.ExceptionsFamily

open Sys2Proof Sys2Proof.Machine

/-! ### Every command answers (rule R210) -/

theorem pushResult_next (s0 : State) (v : Int) (s : State) : ∃ t, pushResult s0 v s = .next t := by
  rw [pushResult_eq]
  cases pushCheck s.cfg s.stack.length v <;> exact ⟨_, rfl⟩

theorem pushTwo_next (s0 : State) (v w : Int) (s : State) : ∃ t, pushTwo s0 v w s = .next t := by
  rw [pushTwo_eq]
  cases pushCheck s.cfg s.stack.length v with
  | none => exact pushResult_next s0 w _
  | some r => exact ⟨_, rfl⟩

theorem resumeWith_next (v : Int) (s : State) : ∃ t, resumeWith v s = .next t := by
  rw [resumeWith_eq]
  cases pushCheck s.cfg s.stack.length v <;> exact ⟨_, rfl⟩

theorem exec_dup_next (s : State) : ∃ t, exec .dup s = .next t := by
  cases hd : s.cfg.dupEmpty with
  | two => rw [StackFamily.exec_dup_eq_of_two hd]; exact pushTwo_next s _ _ _
  | one => rw [StackFamily.exec_dup_eq_of_one hd]; exact pushResult_next s _ _

/-- Each instruction ends in one of the shared forms, all of which answer a next state. -/
theorem exec_next (i : Instr) (s : State) : ∃ t, exec i s = .next t := by
  cases i with
  | goEast | goWest | goNorth | goSouth | goRandom | ifHoriz | ifVert | strOn | strOff | bridge | drop | outInt
  | outChr | put | nop | nopOther | inInt | inChr | halt => exact ⟨_, rfl⟩
  | push0 | push1 | push2 | push3 | push4 | push5 | push6 | push7 | push8 | push9 | strPush
  | add | sub | mul | div | mod | not | gt | get => exact pushResult_next _ _ _
  | dup => exact exec_dup_next s
  | swap => exact pushTwo_next _ _ _ _

theorem stepCommand_next (s : State) : ∃ t, stepCommand s = .next t := by
  by_cases hrun : s.status = .running
  · cases hc : s.cancelPending with
    | true => exact ⟨_, SequencerFamily.stepCommand_of_cancelPending hrun hc⟩
    | false => rw [MemoryFamily.stepCommand_of_running hrun hc]; exact exec_next _ s
  · exact ⟨_, SequencerFamily.stepCommand_of_not_running hrun⟩

theorem resumeCommand_next (line : List Nat) (s : State) : ∃ t, resumeCommand line s = .next t := by
  cases hs : s.status with
  | awaitInt => rw [resumeCommand, hs]; exact resumeWith_next _ s
  | awaitChr => rw [resumeCommand, hs]; exact resumeWith_next _ s
  | running | halted | interrupted | faulted => rw [resumeCommand, hs]; exact ⟨_, rfl⟩

/-- Settles O48: instruction by instruction and command by command. -/
theorem theMachineNeverFails : Obligations.TheMachineNeverFails := by
  refine ⟨exec_next, fun c s => ?_⟩
  cases c with
  | reset image =>
    by_cases hlen : image.length = s.cfg.ncells
    · exact .inl ⟨_, if_pos hlen⟩
    · exact .inr ⟨image, rfl, hlen, if_neg hlen⟩
  | step => exact .inl (stepCommand_next s)
  | resume line => exact .inl (resumeCommand_next line s)
  | cancelReq => exact .inl ⟨_, rfl⟩

/-! ### What a fault leaves alone (rules R42, R211 and R218) -/

/-- `t` is in FAULTED, or has a `fault_reason`, only where `s` was so already; the build is the same. -/
def NoNewFault (s t : State) : Prop :=
  t.cfg = s.cfg ∧ (t.status = .faulted → s.status = .faulted) ∧ (s.faultReason = none → t.faultReason = none)

/-- `t` is `s` in FAULTED for a bound that the build has, with nothing else written. -/
def FaultsTo (s t : State) : Prop := ∃ r, MayFault s.cfg r ∧ t = s.faultedBy r

theorem executed_faultsTo_or_noNewFault {i : Instr} {s t : State} (h : Executed s i t) :
    FaultsTo s t ∨ NoNewFault s t := by
  cases h with
  | completed x y e hu hx hy ht =>
    obtain ⟨hcfg, -, -, -, hstatus, hreason, -⟩ := StateFamily.effect_frame hu
    subst ht
    exact .inr ⟨hcfg, hstatus.symm.trans, hreason.trans⟩
  | faulted r hi hr ht => exact .inl ⟨r, hr, ht⟩
  | awaitsInt hi ht | awaitsChr hi ht | halted hi ht => subst ht; exact .inr ⟨rfl, nofun, id⟩

/-- Every command either faults in the one way of rule R218 or brings no fault with it. -/
theorem command_faultsTo_or_noNewFault {c : HostAction} {s t : State} (h : command c s = .next t) :
    FaultsTo s t ∨ NoNewFault s t := by
  cases c with
  | reset image => rw [(resetCommand_cases h).2]; exact .inr ⟨rfl, nofun, fun _ => rfl⟩
  | cancelReq => cases h; exact .inr ⟨rfl, id, id⟩
  | resume line =>
    rcases resumeCommand_cases h with ⟨-, rfl⟩ | ⟨-, ⟨l, e, -, rfl⟩ | hfault⟩
    · exact .inr ⟨rfl, id, id⟩
    · exact .inr ⟨rfl, nofun, id⟩
    · exact .inl hfault
  | step =>
    rcases stepCommand_cases h with ⟨-, rfl⟩ | ⟨-, -, rfl⟩ | ⟨-, -, hx⟩
    · exact .inr ⟨rfl, id, id⟩
    · exact .inr ⟨rfl, nofun, id⟩
    · exact executed_faultsTo_or_noNewFault hx

/-- Settles O49: a step is a command, and without a bound the build has no reason to fault. -/
theorem unboundedBuildsNeverFault : Obligations.UnboundedBuildsNeverFault := by
  intro s t hs hstatus hreason h
  obtain ⟨c, rest, hstep⟩ := step_eq_command s
  rcases command_faultsTo_or_noNewFault (hstep.symm.trans h) with ⟨r, hr, -⟩ | ⟨hcfg, hstatus', hreason'⟩
  · exact absurd hs hr.not_unbounded
  · exact ⟨hcfg.symm ▸ hs, fun hf => hstatus (hstatus' hf), hreason' hreason⟩

/-- Settles O50: the command is not of the kind that brings no fault. -/
theorem faultsArePrecise : Obligations.FaultsArePrecise := by
  intro c s t h hs ht
  rcases command_faultsTo_or_noNewFault h with ⟨r, ⟨hcap, hwidth⟩, rfl⟩ | ⟨-, hstatus, -⟩
  · exact ⟨r, rfl, hcap, hwidth⟩
  · exact absurd (hstatus ht) hs

/-! ### Pushes that do not fit (rules R216, R217 and R219) -/

/-- `o` is what rule R217 asks where a push of `v` at the given depth does not fit: the fault of the first bound broken,
the cap before the width. -/
def FaultsIfRefused (s : State) (depth : Nat) (v : Int) (o : Host.Outcome State Fault Refusal) : Prop :=
  (s.cfg.stackCap = some depth → o = .next (s.faultedBy .stackOverflow)) ∧
  (TooWide s.cfg depth v → o = .next (s.faultedBy .valueOverflow))

/-- The check of a push gives both reasons in their order (rule R36). -/
theorem faultsIfRefused_of_pushCheck {s : State} {depth : Nat} {v : Int} {o : Host.Outcome State Fault Refusal}
    (h : ∀ r, pushCheck s.cfg depth v = some r → o = .next (s.faultedBy r)) : FaultsIfRefused s depth v o :=
  ⟨fun hcap => h _ (pushCheck_stackOverflow v hcap), fun hwide => h _ (pushCheck_valueOverflow hwide)⟩

theorem pushResult_faultsIfRefused (s : State) (v : Int) (l : List Int) :
    FaultsIfRefused s l.length v (pushResult s v { s with stack := l }) :=
  faultsIfRefused_of_pushCheck fun r hr => by rw [pushResult_eq, hr]

theorem resumeWith_faultsIfRefused (s : State) (v : Int) : FaultsIfRefused s s.stack.length v (resumeWith v s) :=
  faultsIfRefused_of_pushCheck fun r hr => by rw [resumeWith_eq, hr]

/-- The first of two pushes (rule R219). -/
theorem pushTwo_faultsIfRefused (s : State) (v w : Int) (l : List Int) :
    FaultsIfRefused s l.length v (pushTwo s v w { s with stack := l }) :=
  faultsIfRefused_of_pushCheck fun r hr => by rw [pushTwo_eq, hr]

/-- The second of two pushes, one value deeper, where the first one fits (rule R219). -/
theorem pushTwo_faultsIfRefused_second {s : State} {v : Int} {l : List Int} (w : Int) (hv : Accepts s.cfg l.length v) :
    FaultsIfRefused s (l.length + 1) w (pushTwo s v w { s with stack := l }) := by
  rw [pushTwo_eq, (pushCheck_eq_none _ _ _).2 hv]
  exact pushResult_faultsIfRefused s w (v :: l)

/-- `i` pushes once from `s`: the value `v`, onto a stack of the given depth (rules R83 and R84). -/
def PushesOnce (s : State) (i : Instr) (depth : Nat) (v : Int) : Prop :=
  ∃ l : List Int, l.length = depth ∧ exec i s = pushResult s v { s with stack := l }

theorem faultsIfRefused_of_pushesOnce {s : State} {i : Instr} {depth : Nat} {v : Int} (h : PushesOnce s i depth v) :
    FaultsIfRefused s depth v (exec i s) := by
  obtain ⟨l, rfl, hexec⟩ := h
  rw [hexec]
  exact pushResult_faultsIfRefused s v l

/-- An instruction that pops nothing. -/
theorem pushesOnce_of_pushResult {s : State} {i : Instr} {v : Int} (h : exec i s = pushResult s v s) :
    PushesOnce s i s.stack.length v :=
  ⟨s.stack, rfl, h⟩

theorem pushesOnce_of_unaryOp {s : State} {i : Instr} {f : Int → Int} {v : Int} (h : exec i s = unaryOp f s)
    (hv : f (s.nth 0) = v) : PushesOnce s i (s.stack.length - 1) v :=
  ⟨s.stack.drop 1, List.length_drop, by rw [h, unaryOp_eq, hv]⟩

theorem pushesOnce_of_binaryOp {s : State} {i : Instr} {f : Int → Int → Int} {v : Int} (h : exec i s = binaryOp f s)
    (hv : f (s.nth 1) (s.nth 0) = v) : PushesOnce s i (s.stack.length - 2) v :=
  ⟨s.stack.drop 2, List.length_drop, by rw [h, binaryOp_eq, hv]⟩

/-- Settles O51: each row's instruction is a shared form with one push, of the row's value at the row's depth. -/
theorem aPushThatDoesNotFitFaults : Obligations.APushThatDoesNotFitFaults := by
  refine ⟨fun s line v hv => ?_, fun s op p hp => faultsIfRefused_of_pushesOnce ?_⟩
  · have hresume : command (.resume line) s = resumeWith v s := InOutFamily.resumeCommand_of_lineGives hv
    rw [hresume]
    exact resumeWith_faultsIfRefused s v
  · revert p
    simp only [List.forall_mem_cons]
    exact ⟨pushesOnce_of_pushResult rfl, pushesOnce_of_pushResult rfl, pushesOnce_of_pushResult rfl,
      pushesOnce_of_pushResult rfl, pushesOnce_of_pushResult rfl, pushesOnce_of_pushResult rfl,
      pushesOnce_of_pushResult rfl, pushesOnce_of_pushResult rfl, pushesOnce_of_pushResult rfl,
      pushesOnce_of_pushResult rfl, pushesOnce_of_pushResult rfl,
      pushesOnce_of_binaryOp (f := fun b a => a + b) rfl rfl,
      pushesOnce_of_binaryOp (f := fun b a => b - a) rfl rfl,
      pushesOnce_of_binaryOp (f := fun b a => a * b) rfl rfl,
      pushesOnce_of_binaryOp (f := quotient s.cfg) rfl rfl,
      pushesOnce_of_binaryOp (f := remainder s.cfg) rfl rfl,
      pushesOnce_of_unaryOp (f := fun a => truth (decide (a = 0))) rfl (AluFamily.truth_decide _),
      pushesOnce_of_binaryOp (f := fun b a => truth (decide (b > a))) rfl (AluFamily.truth_decide _),
      pushesOnce_of_binaryOp (f := fun b a => ofCode (gridRead s a b)) rfl rfl, nofun⟩

/-- Settles O52: the two pushes of `\` and of `:`, and the one of `:` in a build with `DUP_EMPTY = ONE`. -/
theorem theFirstFailingPushDecides : Obligations.TheFirstFailingPushDecides := by
  refine ⟨fun s p hp htwo => ?_, fun s hone => ?_⟩
  · obtain ⟨l, hlen, hexec⟩ : ∃ l : List Int, l.length = p.2.1 ∧
        exec p.1 s = pushTwo s p.2.2.1 p.2.2.2 { s with stack := l } := by
      simp only [List.mem_cons, List.not_mem_nil, or_false] at hp
      rcases hp with rfl | rfl
      · exact ⟨s.stack.drop 2, List.length_drop, StackFamily.exec_swap_eq s⟩
      · exact ⟨s.stack.drop 1, List.length_drop, StackFamily.exec_dup_eq_of_two (htwo rfl)⟩
    rw [hexec, ← hlen]
    obtain ⟨hcap, hwide⟩ := pushTwo_faultsIfRefused s p.2.2.1 p.2.2.2 l
    exact ⟨hcap, hwide, pushTwo_faultsIfRefused_second p.2.2.2⟩
  · exact faultsIfRefused_of_pushesOnce (pushesOnce_of_pushResult (StackFamily.exec_dup_eq_of_one hone))

/-! ### A cancellation during an input wait (rule R221) -/

/-- Settles O53: the `RESUME` does not read the latch, and keeps it for the `STEP` that follows. -/
theorem cancellationDuringAWaitIsTakenAfterIt : Obligations.CancellationDuringAWaitIsTakenAfterIt := by
  intro s line v hv haccepts
  obtain ⟨hcompletes, -⟩ := InOutFamily.resumeCompletesTheInput { s with cancelPending := true } line
  obtain ⟨u, hresume, -, hu⟩ := hcompletes v hv haccepts
  have hrun : u.status = .running := by rw [hu]; rfl
  have hlatch : u.cancelPending = true := by rw [hu]; rfl
  obtain ⟨hstack, hsteps⟩ : u.stack = v :: s.stack ∧ u.steps = s.steps + 1 := by rw [hu]; exact ⟨rfl, rfl⟩
  obtain ⟨w, hstep, hw, -⟩ := SequencerFamily.pendingCancellationWins u hrun hlatch
  exact ⟨_, u, w, rfl, rfl, hresume, hrun, hstack, hsteps, hstep, hw⟩

end Sys2Proof.ExceptionsFamily
end

section
/-! The family 70_reset_and_hazards: `RESET` (rules R240 and R241), the power-on state (rule R242), and the reference
loader (rule R243). -/

namespace Sys2Proof.ResetFamily

open Sys2Proof Sys2Proof.Machine

/-! ### The command RESET (rules R240 and R241) -/

theorem resetCommand_of_length {s : State} {image : List Code} (h : image.length = s.cfg.ncells) :
    resetCommand image s = .next (resetState image s) :=
  if_pos h

/-- After a `RESET` the cell with address `k` holds image element `k` (rule R240). -/
theorem gridRead_resetState {s : State} {image : List Code} (hlen : image.length = s.cfg.ncells) {k : Nat}
    (hk : k < s.cfg.ncells) :
    gridRead (resetState image s) (k % s.cfg.width : Nat) (k / s.cfg.width : Nat) = image.getD k 0 := by
  obtain ⟨-, -, haddr⟩ := MemoryFamily.cellAddr_mod_div s.cfg hk
  have hlt : k < image.length := hlen ▸ hk
  calc gridRead (resetState image s) (k % s.cfg.width : Nat) (k / s.cfg.width : Nat)
    _ = (Memory.ofImage image).read k := congrArg (Memory.ofImage image).read haddr
    _ = image.getD k 0 := by rw [Memory.read_ofImage, List.getD_eq_getElem _ _ hlt, List.getD_eq_getElem _ _ hlt]

/-- Settles O54: the registers by their values in `resetState`, the cells by `gridRead_resetState`. -/
theorem resetGivesEveryValue : Obligations.ResetGivesEveryValue := by
  intro s image hlen
  exact ⟨_, resetCommand_of_length hlen, fun k hk => gridRead_resetState hlen hk, rfl, rfl, rfl, rfl, rfl, rfl, rfl,
    rfl, rfl, rfl, rfl, rfl, rfl, rfl, rfl⟩

/-! ### The lines of a text (rule R243) -/

/-- Characters that are no terminators stand in front of the first line of what follows them. -/
theorem splitLines_append {line : List Code} (hlf : (0x0A : Code) ∉ line) (hcr : (0x0D : Code) ∉ line)
    {rest first : List Code} {others : List (List Code)} (h : splitLines false rest = first :: others) :
    splitLines false (line ++ rest) = (line ++ first) :: others := by
  induction line with
  | nil => exact h
  | cons c line ih =>
    rw [List.mem_cons, not_or] at hlf hcr
    obtain ⟨hclf, hlf⟩ := hlf
    obtain ⟨hccr, hcr⟩ := hcr
    rw [List.cons_append, splitLines, if_neg (Ne.symm hclf), if_neg (Ne.symm hccr), ih hlf hcr]
    rfl

/-- Only a LF can belong to the CR before it. -/
theorem splitLines_afterCR {rest : List Code} (h : rest.head? ≠ some 0x0A) :
    splitLines true rest = splitLines false rest := by
  cases rest with
  | nil => rfl
  | cons c rest =>
    have hc : c ≠ 0x0A := fun e => h (congrArg some e)
    rw [splitLines, splitLines, if_neg hc, if_neg hc]

/-- Settles O57: after a line, a terminator makes the first line of what follows the line empty. -/
theorem linesEndAtEachTerminator : Obligations.LinesEndAtEachTerminator := by
  intro line rest hlf hcr
  have hline {tail : List Code} {others : List (List Code)} (h : splitLines false tail = [] :: others) :
      splitLines false (line ++ tail) = line :: others := by
    simpa only [List.append_nil] using splitLines_append hlf hcr h
  refine ⟨?_, hline rfl, hline rfl, fun hhead => hline ?_⟩
  · simpa only [List.append_nil] using hline (tail := []) rfl
  · exact congrArg (List.cons []) (splitLines_afterCR hhead)

/-! ### The loader (rule R243) -/

/-- Two texts' lines hold the same characters, a line that is not there counting as an empty one. -/
def SameLines (ls ms : List (List Code)) : Prop := ∀ y, ls.getD y [] = ms.getD y []

theorem sameLines_cons (l : List Code) {ls ms : List (List Code)} (h : SameLines ls ms) :
    SameLines (l :: ls) (l :: ms)
  | 0 => rfl
  | y + 1 => h y

theorem getD_consLine (c : Code) (ls : List (List Code)) (y : Nat) :
    (consLine c ls).getD y [] = if y = 0 then c :: ls.getD 0 [] else ls.getD y [] := by
  cases ls <;> cases y <;> rfl

theorem sameLines_consLine (c : Code) {ls ms : List (List Code)} (h : SameLines ls ms) :
    SameLines (consLine c ls) (consLine c ms) := by
  intro y
  rw [getD_consLine, getD_consLine, h 0, h y]

/-- The three terminators of rule R243. -/
def terminators : List (List Code) := [[0x0A], [0x0D], [0x0D, 0x0A]]

/-- A terminator alone ends an empty line, or the line before it that a CR has ended. -/
theorem sameLines_terminator {e : List Code} (he : e ∈ terminators) (afterCR : Bool) :
    SameLines (splitLines afterCR e) [[]] := by
  have hlines : splitLines afterCR e = [[]] ∨ splitLines afterCR e = [[], []] := by
    revert e
    cases afterCR <;> decide
  intro y
  rcases hlines with hl | hl
  · rw [hl]
  · rw [hl]
    cases y with
    | zero => rfl
    | succ y => cases y <;> rfl

/-- One terminator at the end of a text adds at most one empty line. -/
theorem sameLines_append_terminator {e : List Code} (he : e ∈ terminators) (text : List Code) (afterCR : Bool) :
    SameLines (splitLines afterCR (text ++ e)) (splitLines afterCR text) := by
  induction text generalizing afterCR with
  | nil => exact sameLines_terminator he afterCR
  | cons c text ih =>
    rw [List.cons_append, splitLines, splitLines]
    by_cases hlf : c = 0x0A
    · rw [if_pos hlf, if_pos hlf]
      cases afterCR with
      | true => exact ih false
      | false => exact sameLines_cons [] (ih false)
    · rw [if_neg hlf, if_neg hlf]
      by_cases hcr : c = 0x0D
      · rw [if_pos hcr, if_pos hcr]
        exact sameLines_cons [] (ih true)
      · rw [if_neg hcr, if_neg hcr]
        exact sameLines_consLine c (ih false)

/-- The image is made of the lines' characters alone. -/
theorem load_congr (c : Config) {text text' : List Code}
    (h : SameLines (splitLines false text) (splitLines false text')) : load c text = load c text' := by
  unfold load
  exact List.map_congr_left fun k _ => by rw [h]

theorem load_append_terminator (c : Config) (text : List Code) {e : List Code} (he : e ∈ terminators) :
    load c (text ++ e) = load c text :=
  load_congr c (sameLines_append_terminator he text false)

theorem length_load (c : Config) (text : List Code) : (load c text).length = c.ncells := by
  simp [load]

theorem getD_load (c : Config) (text : List Code) {k : Nat} (hk : k < c.ncells) :
    (load c text).getD k 0 = ((splitLines false text).getD (k / c.width) []).getD (k % c.width) Config.space := by
  simp [load, hk]

/-- Settles O56: the cell at address `y * W + x` has the coordinates `x` and `y` again as its remainder and its quotient;
a terminator at the end adds at most an empty line, which reads as spaces all the same. -/
theorem theLoaderPadsAndCuts : Obligations.TheLoaderPadsAndCuts := by
  intro c text
  refine ⟨length_load c text, fun x y hx hy => ?_, load_append_terminator c text (by decide),
    load_append_terminator c text (by decide), load_append_terminator c text (by decide)⟩
  have haddr := MemoryFamily.cellAddr_of_lt c hx hy
  have hdiv := MemoryFamily.cellAddr_div_width c x y
  have hmod := MemoryFamily.cellAddr_mod_width c x y
  rw [wrapX_of_lt c hx] at hmod
  rw [wrapY_of_lt c hy] at hdiv
  rw [← haddr, getD_load c text (cellAddr_lt c x y), hdiv, hmod]
  rfl

/-! ### The first RESET (rule R242) -/

/-- The empty text has one line, which is empty. -/
theorem load_nil (c : Config) : load c [] = List.replicate c.ncells Config.space := by
  have hline (y : Nat) : (splitLines false []).getD y [] = [] := by cases y <;> rfl
  simp only [load, hline, List.getD_nil, List.map_const', List.length_range]

/-- An image of spaces lists no cell (log 2). -/
theorem ofImageFrom_replicate_space (k n : Nat) : Memory.ofImageFrom k (List.replicate n Config.space) = [] := by
  induction n generalizing k with
  | zero => rfl
  | succ n ih => rw [List.replicate_succ, Memory.ofImageFrom, ih]; rfl

/-- The `RESET` of the empty text's image makes of `State.reset` what it is already. -/
theorem resetState_load_nil : resetState (load Config.rr25 []) State.reset = State.reset := by
  have hgrid : Memory.ofImage (load Config.rr25 []) = [] := by
    rw [load_nil]
    exact ofImageFrom_replicate_space 0 _
  rw [resetState, hgrid]
  rfl

/-- Settles O55: the refusals by the definition, the two `RESET`s by their images' lengths. -/
theorem theFirstResetStartsTheMachine : Obligations.TheFirstResetStartsTheMachine := by
  refine ⟨rfl, rfl, fun _ => rfl, fun image hlen => ⟨_, resetCommand_of_length hlen, rfl⟩, ?_, fun _ _ => rfl⟩
  calc powered (.reset (load Config.rr25 [])) none
    _ = .next (resetState (load Config.rr25 []) State.reset) := resetCommand_of_length (length_load Config.rr25 [])
    _ = .next State.reset := by rw [resetState_load_nil]

end Sys2Proof.ResetFamily
end
